-- ==== Sys2Proof/Word.lean ====
section
/-! DEFINITION. The widths of the values of PLLCORE (R11 to R14, R21, R72): abbreviations of `BitVec`, and the
two saturation bounds. -/

namespace Sys2Proof

/-- A 32-bit value, read as `s32` by `BitVec.toInt` (R11, R13): a register, a table word, a wire of the datapath. -/
abbrev Word := BitVec 32

/-- The phase accumulator's 30 bits (`u30`, R23). -/
abbrev Theta := BitVec 30

/-- A word index of the sine-table space, `0..1023` (R50, R110). -/
abbrev Index := BitVec 10

/-- The sample port's 24 bits, read as `s24` (R76). -/
abbrev Sample := BitVec 24

/-- A command word, `cmd[65:0]` (R72). -/
abbrev Cmd := BitVec 66

/-- `INT32_MIN` (R13). -/
def int32Min : Int := -2147483648

/-- `INT32_MAX` (R13). -/
def int32Max : Int := 2147483647

end Sys2Proof
end

