-- ==== Sys2Proof/Machine/Operands.lean ====
section
/-! DEFINITION. The fields of a command word (R72, R73), operand assembly (R75, R76), and the host's conversion of an
integer into an operand, which refuses what does not fit instead of truncating it (R76, R79, R208). -/

namespace Sys2Proof.Machine

/-- `op = cmd[65:64]` (R72). -/
def opField (w : Cmd) : BitVec 2 := w.extractLsb' 64 2

/-- `a = cmd[63:32]`, which is `kp0` in format I (R72, R75). -/
def aField (w : Cmd) : Word := w.extractLsb' 32 32

/-- `b = cmd[31:0]`, which is `ki0` in format I (R72, R75). -/
def bField (w : Cmd) : Word := w.extractLsb' 0 32

/-- `xs = cmd[23:0]` of format S (R73, R76). -/
def xField (w : Cmd) : Sample := w.extractLsb' 0 24

/-- A word from its three fields, `{op, a, b}` (R72). -/
def wordOfFields (op : BitVec 2) (a b : Word) : Cmd := op ++ a ++ b

/-- `cmd[31:24]` of format S, which the block ignores (R73, R77). -/
def sIgnored (w : Cmd) : BitVec 8 := w.extractLsb' 24 8

/-- The `n`-bit pattern of an integer of `sN`, none where it is out of range: an assembly error (R79) or a sample the
host may not issue (R208, U11). -/
def patternOfInt (n : Nat) (v : Int) : Option (BitVec n) :=
  if -(2 ^ (n - 1)) ≤ v ∧ v < 2 ^ (n - 1) then some (BitVec.ofInt n v) else none

/-- A host's wider sample as the sample port's 24 bits (R208). -/
def sampleOfInt (v : Int) : Option Sample := patternOfInt 24 v

end Sys2Proof.Machine
end

