-- ==== Sys2Proof/Syntax.lean ====
section
/-! DEFINITION. The four commands of PLLCORE (R74), one constructor per row of spec/opcode_table.json. -/

namespace Sys2Proof

/-- A decoded command. The operands are the fields the formats carry (R73), each at its own width. -/
inductive Instr where
  /-- `NOP` (R161). -/
  | nop
  /-- `INIT kp0, ki0` (R162): the two gains, `s32` in Q30 (R75). -/
  | init (kp0 ki0 : Word)
  /-- `STEP x` (R163): one sample, `s24` in Q22 (R76). -/
  | step (x : Sample)
  /-- `RSVD` (R164), the reserved opcode. -/
  | rsvd
  deriving DecidableEq, Repr

/-- The mnemonic of rule R79 and of spec/opcode_table.json. -/
def Instr.mnemonic : Instr → String
  | .nop => "NOP"
  | .init _ _ => "INIT"
  | .step _ => "STEP"
  | .rsvd => "RSVD"

end Sys2Proof
end

