-- ==== Sys2Proof/Decode.lean ====
section
/-! DEFINITION. Decoding of command words (30_encoding.md), total on all 66-bit words (R74), the encoder that emits the
canonical word (R77, R80), and the opcode table as rows of mask and match. -/

namespace Sys2Proof

/-- What a decoder of a wider bit pattern may refuse. -/
inductive DecodeError where
  /-- A set bit at or above bit 66: the command port has no such wire (R70, R72). -/
  | beyondThePort
  deriving DecidableEq, Repr

/-- The command of a word (R74 to R76). No other bit than those of `op` takes part in the selection. -/
def decode (w : Cmd) : Instr :=
  if Machine.opField w = 0b00#2 then .nop
  else if Machine.opField w = 0b01#2 then .init (Machine.aField w) (Machine.bField w)
  else if Machine.opField w = 0b10#2 then .step (Machine.xField w)
  else .rsvd

/-- The opcode of a command (R74). -/
def Instr.opcode : Instr → BitVec 2
  | .nop => 0b00#2
  | .init _ _ => 0b01#2
  | .step _ => 0b10#2
  | .rsvd => 0b11#2

/-- Assembly of a command into its canonical word (R80): ignored bits are emitted as 0. -/
def encode : Instr → Cmd
  | .nop => Machine.wordOfFields 0b00#2 0#32 0#32
  | .init kp0 ki0 => Machine.wordOfFields 0b01#2 kp0 ki0
  | .step x => Machine.wordOfFields 0b10#2 0#32 (x.setWidth 32)
  | .rsvd => Machine.wordOfFields 0b11#2 0#32 0#32

/-- A word whose ignored bits are all 0: `cmd[63:0]` in format N, `cmd[63:24]` in format S, none in format I (R77). -/
def canonical (w : Cmd) : Bool :=
  if Machine.opField w = 0b01#2 then true
  else if Machine.opField w = 0b10#2 then Machine.aField w == 0#32 && Machine.sIgnored w == 0#8
  else Machine.aField w == 0#32 && Machine.bField w == 0#32

/-- A row of the opcode table. -/
structure Row where
  mnemonic : String
  mask : Cmd
  pattern : Cmd
  deriving DecidableEq, Repr

/-- The four rows of spec/opcode_table.json (R74). -/
def opcodeRows : List Row :=
  [ { mnemonic := "NOP", mask := 0x30000000000000000#66, pattern := 0x00000000000000000#66 },
    { mnemonic := "INIT", mask := 0x30000000000000000#66, pattern := 0x10000000000000000#66 },
    { mnemonic := "STEP", mask := 0x30000000000000000#66, pattern := 0x20000000000000000#66 },
    { mnemonic := "RSVD", mask := 0x30000000000000000#66, pattern := 0x30000000000000000#66 } ]

/-- A row covers a word when the word's masked bits are the row's pattern. -/
def Row.covers (r : Row) (w : Cmd) : Bool := w &&& r.mask == r.pattern

/-- The word on the port for a bit pattern numbered as spec/opcode_table.json numbers it: the low `nbits` bits of `w`,
every bit above them 0. A pattern with a set bit above bit 65 does not fit the port and is refused, never cut
(log entry 11). -/
def portWord (nbits w : Nat) : Except DecodeError Cmd :=
  if w % 2 ^ nbits < 2 ^ 66 then .ok (BitVec.ofNat 66 (w % 2 ^ nbits)) else .error .beyondThePort

/-- The decoder on such a pattern. -/
def decodeBits (nbits w : Nat) : Except DecodeError Instr :=
  match portWord nbits w with
  | .ok c => .ok (decode c)
  | .error e => .error e

/-- The decoder on an opcode-table row's word. -/
def decodeTableWord (nbits w : Nat) : Option Instr :=
  match decodeBits nbits w with
  | .ok i => some i
  | .error _ => none

end Sys2Proof
end

