-- ==== Sys2Proof/Config.lean ====
section
/-! DEFINITION. What one deployment of the block fixes (R9): the parameters of 00_scope.md section 4 that the source
leaves open, with their reference values, and the two free values of the model, which have no body. -/

namespace Sys2Proof.Config

/-- `PHINC_MODE` (R9, R143): which realisation of the frequency-to-phase-increment converter the block has. -/
inductive PhincMode where
  /-- Direct division (R141), the default. -/
  | div
  /-- Reciprocal multiply with a reciprocal of `k` bits (R142). -/
  | recip (k : Nat)
  deriving DecidableEq, Repr

/-- The open parameters (R9). They are constants of a run and no command changes them (R20, D18). The defaults are
"the reference configuration"; `SINE_TABLE` has none (R7). `STEP_LATENCY` is left out as timing: no rule depends on
it (R212, log entry 10). -/
structure Params where
  /-- `F0`, the nominal frequency in Q25 Hz; reference value 50 Hz (R9). -/
  f0 : Int := 0x64000000
  /-- `FS`, the sample rate in Hz (R9). -/
  fs : Nat := 40000
  /-- `PHINC_MODE` (R143). -/
  phincMode : PhincMode := .div
  /-- `SINE_TABLE`: the 1024 words of the sine-table space, a total function (R50, R51). -/
  sineTable : Index → Word

/-- The contents of the deployed block's sine table. The spec takes them as an open parameter (R7, R51, U6), so the
constant has no body. DESIGN CHOICE (log entry 4): safe. -/
opaque sineTable : Index → Word

/-- What register `x[i]` holds at power-on: "any value" (R37, R200, U1), so the constant has no body.
DESIGN CHOICE (log entry 2): unsafe only in that every power-on gives the same values. -/
opaque powerOn : Fin 8 → Word

end Sys2Proof.Config
end

