-- ==== Sys2Proof/Machine/Nco.lean ====
section
/-! DEFINITION. The lookup-table oscillator (41_nco.md) and the read path to the sine-table space (20_memory.md). -/

namespace Sys2Proof.Machine

/-- `MemRead(i, 1)` (R16, R50): one whole word of the sine-table space. It has no side effect (R56), and the index is
in range by its width (R55). -/
def tableRead (p : Config.Params) (i : Index) : Word := p.sineTable i

/-- `theta` as the output port and the index function see it: zero-extended to 32 bits (R23, R40). -/
def presented (theta : Theta) : Word := theta.setWidth 32

/-- The sine index of `NCOIDX` (R110): bits 29:20 of the value; bits 31:30 and 19:0 take no part (D20). -/
def sidx (v : Word) : Index := v.extractLsb' 20 10

/-- The cosine index of `NCOIDX` (R110): a quarter turn ahead, in a 10-bit addition that drops the carry. -/
def cidx (v : Word) : Index := sidx v + 256#10

/-- The sine output of the oscillator (R111): the table word itself. -/
def ncoSin (p : Config.Params) (theta : Theta) : Word := tableRead p (sidx (presented theta))

/-- The cosine output of the oscillator (R112): the same table, read at the cosine index. -/
def ncoCos (p : Config.Params) (theta : Theta) : Word := tableRead p (cidx (presented theta))

end Sys2Proof.Machine
end

