-- ==== Sys2Proof/Machine/Fixed.lean ====
section
/-! DEFINITION. The fixed-point arithmetic primitives (40_fixedpoint_primitives.md): every operation computes the exact
integer and narrows it by clamping (R12, R90). None writes a flag and none raises an exception (R32, R180). -/

namespace Sys2Proof.Machine

/-- `SAT32` (R91): clamp to `[-2^31, 2^31 - 1]`. -/
def sat32 (v : Int) : Word :=
  if v < int32Min then BitVec.ofInt 32 int32Min
  else if int32Max < v then BitVec.ofInt 32 int32Max
  else BitVec.ofInt 32 v

/-- `SATADD` (R92): the exact sum, clamped once. -/
def satAdd (a b : Word) : Word := sat32 (a.toInt + b.toInt)

/-- `ASR` (R93, C3): `floor(v / 2^n)`. Lean's `/` on `Int` is the floor for a positive divisor. -/
def asr (v : Int) (n : Nat) : Int := v / 2 ^ n

/-- `QMUL30` (R94): the full product, shifted with the floor, then clamped. -/
def qmul30 (a b : Word) : Word := sat32 (asr (a.toInt * b.toInt) 30)

/-- `NEGS` (R95, D6): saturating negation. -/
def negs (a : Word) : Word := sat32 (-a.toInt)

end Sys2Proof.Machine
end

