-- ==== Sys2Proof/Machine/Pdpi.lean ====
section
/-! DEFINITION. The phase detector and PI controller (42_phase_detector_pi.md), one definition per step of the source. -/

namespace Sys2Proof.Machine

/-- `RESCALE` (R120): `x << 8`, exact on the 24-bit port. -/
def rescale (x : Sample) : Word := BitVec.ofInt 32 (x.toInt * 256)

/-- The product of the phase detector (R121), before the negation. -/
def pdProduct (x30 s : Word) : Word := qmul30 x30 s

/-- `PD` (R121): multiply first, then the saturating negation. -/
def pd (x30 s : Word) : Word := negs (pdProduct x30 s)

/-- The proportional term (R122). -/
def proportional (kp qerr : Word) : Word := qmul30 kp qerr

/-- The integral term `iterm` (R123). -/
def integralTerm (ki qerr : Word) : Word := qmul30 ki qerr

/-- The integrator update (R123). -/
def integrate (integrator iterm : Word) : Word := satAdd integrator iterm

/-- The controller output (R124), on the updated integrator (D7). -/
def controllerOut (p integNew : Word) : Word := satAdd p integNew

/-- `U2DF` (R125): Q30 to Q25 by a floor shift of 5; the clamp is kept although it is inert (C9). -/
def u2df (u : Word) : Word := sat32 (asr u.toInt 5)

/-- `OUTF` (R126, D24): the plain addition of the nominal frequency. It is exact wherever rule R10 holds. -/
def outf (c : Config.Params) (df : Word) : Word := BitVec.ofInt 32 (c.f0 + df.toInt)

/-- The wires of one `STEP` inside this unit (R18, R127). They are not state. -/
structure PdpiWires where
  x30 : Word
  m : Word
  qerr : Word
  p : Word
  iterm : Word
  integrator : Word
  u : Word
  deltaFreq : Word
  outFreq : Word
  deriving DecidableEq, Repr

/-- `PDPI` (R127): the unit as a whole, in the source's order. -/
def pdpi (c : Config.Params) (kp ki integrator : Word) (x : Sample) (s : Word) : PdpiWires :=
  let x30 := rescale x
  let qerr := pd x30 s
  let p := proportional kp qerr
  let iterm := integralTerm ki qerr
  let integNew := integrate integrator iterm
  let u := controllerOut p integNew
  let df := u2df u
  { x30 := x30, m := pdProduct x30 s, qerr := qerr, p := p, iterm := iterm, integrator := integNew, u := u,
    deltaFreq := df, outFreq := outf c df }

end Sys2Proof.Machine
end

