-- ==== Sys2Proof/Machine/Phadv.lean ====
section
/-! DEFINITION. The phase accumulator with wrap-around (44_phase_accumulator.md). -/

namespace Sys2Proof.Machine

/-- `PHADV` (R150): `(theta + inc) mod 2^30`, for every integer `inc`. The only wrapping operation of the block. -/
def phadv (theta : Theta) (inc : Int) : Theta := BitVec.ofInt 30 ((theta.toNat : Int) + inc)

end Sys2Proof.Machine
end

