-- ==== Sys2Proof/Machine/Phinc.lean ====
section
/-! DEFINITION. The frequency-to-phase-increment converter (43_freq_to_phase_inc.md). -/

namespace Sys2Proof.Machine

/-- `PHINC_DIV` (R141, D19): `floor(F * 32 / FS)`. -/
def phincDiv (fs : Nat) (f : Int) : Int := f * 32 / (fs : Int)

/-- `RECIP_R` (R142): `2^K / FS` rounded half up, `floor(2^K / FS + 1/2)`. -/
def recipR (k fs : Nat) : Nat := (2 * 2 ^ k + fs) / (2 * fs)

/-- `RECIP_SHIFT` (R142). -/
def recipShift (k : Nat) : Nat := k - 5

/-- `PHINC_RECIP(K)` (R142): reciprocal multiply, then the floor shift. -/
def phincRecip (k fs : Nat) (f : Int) : Int := asr (f * (recipR k fs : Int)) (recipShift k)

/-- `PHINC` (R140, R143): the configured realisation, a function of the frequency and the configuration alone. -/
def phinc (c : Config.Params) (f : Int) : Int :=
  match c.phincMode with
  | .div => phincDiv c.fs f
  | .recip k => phincRecip k c.fs f

end Sys2Proof.Machine
end

