-- ==== Sys2Proof/Machine/State.lean ====
section
/-! DEFINITION. The state of PLLCORE (10_state.md): the eight registers, the lifecycle phase, and the command words the
host has presented; the reasons a step can stop; the state at power-on. -/

namespace Sys2Proof.Machine

/-- The lifecycle (R35, R167): ghost state. The hardware stores no such bit and no rule of the datapath reads one; the
model carries it to refuse a `STEP` before the first `INIT` (R165). -/
inductive Phase where
  /-- Between power-on and the first `INIT` (D9). -/
  | uninit
  /-- Gains set, phase and integrator zero, frequency at nominal. -/
  | initialized
  /-- After one or more `STEP`s. -/
  | running
  deriving DecidableEq, Repr

/-- The block raises no exception (R180), so this type has no constructor: no meaning can answer with a fault. -/
inductive Fault where
  deriving DecidableEq, Repr

/-- Why a step has no next state. -/
inductive Refusal where
  /-- Raised by an arm of `exec` for an instruction with no meaning yet; no arm raises it now. Safe. -/
  | notModelled (mnemonic : String)
  /-- Raised by `STEP` in phase `uninit`: "The model **refuses** such a `STEP`" (R165, U2). Safe: the model says
  nothing of what the hardware would compute. -/
  | stepBeforeInit
  deriving DecidableEq, Repr

/-- The whole state (R20, R35), plain data. The table and the constants are configuration, not state (R20). -/
structure State where
  /-- `x[0]`, proportional gain, `s32` Q30 (R22). -/
  kp : Word
  /-- `x[1]`, integral gain, `s32` Q30 (R22). -/
  ki : Word
  /-- `x[2]`, phase accumulator, `u30` turns (R23). -/
  theta : Theta
  /-- `x[3]`, the saturating integrator, `s32` Q30 (R24). -/
  integrator : Word
  /-- `x[4]`, sine output, `s32` Q30 (R25). -/
  sinCached : Word
  /-- `x[5]`, cosine output, `s32` Q30 (R25). -/
  cosCached : Word
  /-- `x[6]`, estimated frequency, `s32` Q25 Hz (R26). -/
  outFreq : Word
  /-- `x[7]`, correction term, `s32` Q25 Hz (R27). -/
  deltaFreq : Word
  /-- The lifecycle phase (R35). -/
  phase : Phase
  /-- The MODEL's own field: the command words the host presents, one a tick, the next one first (R70, R71). -/
  cmds : List Cmd
  deriving DecidableEq, Repr

/-- Power-on (R37, R200): no register has a specified value, so each holds the free value `Config.powerOn`
(DESIGN CHOICE, log entry 2, unsafe as it says); the phase is `uninit`; no command has been presented. -/
def State.reset : State :=
  { kp := Config.powerOn 0, ki := Config.powerOn 1, theta := (Config.powerOn 2).setWidth 30,
    integrator := Config.powerOn 3, sinCached := Config.powerOn 4, cosCached := Config.powerOn 5,
    outFreq := Config.powerOn 6, deltaFreq := Config.powerOn 7, phase := .uninit, cmds := [] }

end Sys2Proof.Machine
end

