-- ==== Sys2Proof/WellFormed.lean ====
section
/-! DEFINITION. Well-formedness of configurations (R10, R144) and of commands. A configuration is checked where the
model takes it: `Config.Block` cannot be built from parameters that fail (U10). -/

namespace Sys2Proof

/-- Every field of a command may hold every pattern of its width: each gain (R22, R75) and each 24-bit sample (R76,
R182) is valid input, and the other two commands have no operand. So the widths of `Instr` are the whole check. -/
def Instr.wf : Instr → Bool
  | .nop => true
  | .init _ _ => true
  | .step _ => true
  | .rsvd => true

namespace Config

/-- `F0` fits a signed 32-bit value (R10). -/
def Params.f0Fits (c : Params) : Bool := decide (int32Min ≤ c.f0 ∧ c.f0 ≤ int32Max)

/-- `F0 - 2^26 >= -2^31` (R10). -/
def Params.f0RoomBelow (c : Params) : Bool := decide (int32Min ≤ c.f0 - 67108864)

/-- `F0 + 2^26 - 1 <= 2^31 - 1` (R10). -/
def Params.f0RoomAbove (c : Params) : Bool := decide (c.f0 + 67108864 - 1 ≤ int32Max)

/-- `FS` is a positive integer (R10). -/
def Params.fsPositive (c : Params) : Bool := decide (0 < c.fs)

/-- `5 <= K <= 47` for `RECIP(K)` (92_eei_decisions.md, the open parameters), and a reciprocal below `2^32`, so that
the product fits 64 bits (R97). -/
def PhincMode.inRange (fs : Nat) : PhincMode → Bool
  | .div => true
  | .recip k => decide (5 ≤ k ∧ k ≤ 47 ∧ Machine.recipR k fs < 4294967296)

/-- Rule R10 and the range of `K`. -/
def Params.wf (c : Params) : Bool :=
  c.f0Fits && c.f0RoomBelow && c.f0RoomAbove && c.fsPositive && c.phincMode.inRange c.fs

/-- The agreement property (R144): within one unit of the direct division for every `F` of 45 to 55 Hz. -/
def Params.Agrees (c : Params) : Prop :=
  ∀ f : Int, 45 * 33554432 ≤ f → f ≤ 55 * 33554432 →
    -1 ≤ Machine.phinc c f - Machine.phincDiv c.fs f ∧ Machine.phinc c f - Machine.phincDiv c.fs f ≤ 1

/-- A configuration that the model accepts: one that breaks R10 or R144 is refused by not being instantiable (U10,
D11, D24). DEDUCED (log entry 7): safe. -/
structure Block where
  params : Params
  wf : params.wf = true
  agrees : params.Agrees

end Config

end Sys2Proof
end

