-- ==== Sys2Proof/Machine/Ops.lean ====
section
/-! DEFINITION. The named operations over the state: reading the registers (R15, R40), the command port (R70, R71),
initialisation (R162) and the sample tick (R163), and the configuration of the block. The block takes no exception and
returns from none (R180, R185), so there is no such operation. -/

namespace Sys2Proof.Machine

/-- The reference configuration (R9) with a given table. -/
def referenceParams (t : Index → Word) : Config.Params := { sineTable := t }

/-- The direct division agrees with itself (R144: "`PHINC_DIV` satisfies it trivially"). -/
theorem referenceParams_agrees (t : Index → Word) : (referenceParams t).Agrees := fun f _ _ =>
  ⟨by simp [referenceParams, phinc], by simp [referenceParams, phinc]⟩

/-- The deployed block: the reference values, direct division (D11) and a table of open contents (U6).
DESIGN CHOICE (log entries 4, 5, 6): unsafe where the deployment's own parameters differ. -/
def block : Config.Block :=
  { params := referenceParams Config.sineTable, wf := by decide, agrees := referenceParams_agrees _ }

/-- Register `x[i]` as the host reads it (R15, R40): `theta` zero-extended to 32 bits. -/
def State.x (s : State) (i : Fin 8) : Word :=
  match i with
  | 0 => s.kp
  | 1 => s.ki
  | 2 => presented s.theta
  | 3 => s.integrator
  | 4 => s.sinCached
  | 5 => s.cosCached
  | 6 => s.outFreq
  | 7 => s.deltaFreq

/-- The eight output ports (R70). -/
structure Ports where
  kp : Word
  ki : Word
  theta : Word
  integrator : Word
  sinCached : Word
  cosCached : Word
  outFreq : Word
  deltaFreq : Word
  deriving DecidableEq, Repr

/-- What the output ports show between two commands (R40, R70); reading has no side effect. -/
def State.ports (s : State) : Ports :=
  { kp := s.x 0, ki := s.x 1, theta := s.x 2, integrator := s.x 3, sinCached := s.x 4, cosCached := s.x 5,
    outFreq := s.x 6, deltaFreq := s.x 7 }

/-- The word on the command port at this tick, with the state in which the host's later words are still to come
(R70, R71); none where the host presents no command (R167). -/
def fetch (s : State) : Option (Cmd × State) :=
  match s.cmds with
  | [] => none
  | w :: rest => some (w, { s with cmds := rest })

/-- The host presents further command words, after those it has presented already (R31, R58). -/
def present (ws : List Cmd) (s : State) : State := { s with cmds := s.cmds ++ ws }

/-- The command port carries `w` at the next tick, in place of the word it would carry. -/
def presentNext (w : Option Cmd) (s : State) : State := { s with cmds := w.toList ++ s.cmds.tail }

/-- A command that changes nothing (R161, R164). -/
def hold (s : State) : Host.Outcome State Fault Refusal := .next s

/-- The registers after initialisation (R162, R38): all eight are written and none is read. -/
def initialise (c : Config.Params) (kp0 ki0 : Word) (s : State) : State :=
  { s with
    kp := kp0
    ki := ki0
    theta := 0#30
    integrator := 0#32
    outFreq := BitVec.ofInt 32 c.f0
    sinCached := tableRead c 0#10
    cosCached := tableRead c 256#10
    deltaFreq := 0#32
    phase := .initialized }

/-- The wires of the detector and controller in this state, for this sample (R163 part 2). -/
def controlWires (c : Config.Params) (x : Sample) (s : State) : PdpiWires :=
  pdpi c s.kp s.ki s.integrator x (ncoSin c s.theta)

/-- The phase increment of this step, from the new `out_freq` (R163 part 3). -/
def increment (c : Config.Params) (x : Sample) (s : State) : Int :=
  phinc c (controlWires c x s).outFreq.toInt

/-- The registers after one sample tick (R163): every read is of the state before the step, the oscillator is evaluated
on the `theta` the step starts with (C2), and all writes take effect together (R160). -/
def sampleTick (c : Config.Params) (x : Sample) (s : State) : State :=
  { s with
    sinCached := ncoSin c s.theta
    cosCached := ncoCos c s.theta
    integrator := (controlWires c x s).integrator
    deltaFreq := (controlWires c x s).deltaFreq
    outFreq := (controlWires c x s).outFreq
    theta := phadv s.theta (increment c x s)
    phase := .running }

/-- `STEP` under a given configuration: a sample tick, refused in phase `uninit` (R165). -/
def tickOrRefuse (c : Config.Params) (x : Sample) (s : State) : Host.Outcome State Fault Refusal :=
  if s.phase = .uninit then .refused .stepBeforeInit else .next (sampleTick c x s)

/-- The word indices a command reads, in the order sine then cosine (R52): what `rom_addr_s` and `rom_addr_c` carry
(R70). No read is made by `NOP`, `RSVD`, or a refused `STEP`. -/
def romReads (i : Instr) (s : State) : List Index :=
  match i with
  | .nop => []
  | .init _ _ => [0#10, 256#10]
  | .step _ => if s.phase = .uninit then [] else [sidx (presented s.theta), cidx (presented s.theta)]
  | .rsvd => []

end Sys2Proof.Machine
end

