-- ==== Sys2Proof/Machine/Commands.lean ====
section
/-! DEFINITION. The meanings of the four commands (45_commands.md), one definition each. None writes a flag and none
raises an exception (R32, R180). -/

namespace Sys2Proof.Machine

/-- `NOP` (R161): every register keeps its value, no table read, legal in every phase. -/
def execNop (s : State) : Host.Outcome State Fault Refusal := hold s

/-- `INIT kp0, ki0` (R162, R166): the block's reset, legal in every phase. -/
def execInit (kp0 ki0 : Word) (s : State) : Host.Outcome State Fault Refusal :=
  .next (initialise block.params kp0 ki0 s)

/-- `STEP x` (R163, R165): one sample tick; refused before the first `INIT`. -/
def execStep (x : Sample) (s : State) : Host.Outcome State Fault Refusal := tickOrRefuse block.params x s

/-- `RSVD` (R164, R78): identical in effect to `NOP`. -/
def execRsvd (s : State) : Host.Outcome State Fault Refusal := hold s

end Sys2Proof.Machine
end

