-- ==== Sys2Proof/Machine/Dispatch.lean ====
section
/-! DEFINITION. The dispatch of a decoded command to its meaning, one arm per constructor. -/

namespace Sys2Proof.Machine

def exec (i : Instr) (s : State) : Host.Outcome State Fault Refusal :=
  match i with
  | .nop => Sys2Proof.Machine.execNop s
  | .init kp0 ki0 => Sys2Proof.Machine.execInit kp0 ki0 s
  | .step x => Sys2Proof.Machine.execStep x s
  | .rsvd => Sys2Proof.Machine.execRsvd s

end Sys2Proof.Machine
end

