-- ==== Sys2Proof/Machine/Step.lean ====
section
/-! DEFINITION. One tick (R71, R160): take the word on the command port, decode it, execute it completely. -/

namespace Sys2Proof.Machine

/-- One tick. Where the host presents no command the block holds its state and does nothing (R167, R191, R209). -/
def step (s : State) : Host.Outcome State Fault Refusal :=
  match fetch s with
  | none => hold s
  | some (w, s') => exec (decode w) s'

/-- The state with an opcode-table word on the command port at the next tick (log entry 1). A pattern that does not fit
the port presents nothing (log entry 11). -/
def State.withFetchWord (s : State) (nbits w : Nat) : State :=
  match portWord nbits w with
  | .ok c => presentNext (some c) s
  | .error _ => presentNext none s

end Sys2Proof.Machine
end

