-- ==== Sys2Proof/Machine/Asm.lean ====
section
/-! DEFINITION. The assembler text of 30_encoding.md (R79 to R82): the grammar, the `.rept` directive, the listing form
of a word and the disassembly. Text is a list of characters. Nothing here touches the state (D13). -/

namespace Sys2Proof.Machine

/-- One line of a program (R79). -/
inductive Line where
  /-- No statement, only white space or a comment. -/
  | blank
  /-- A command. -/
  | cmd (i : Instr)
  /-- `.rept n` (R81). -/
  | rept (n : Nat)
  /-- `.endr` (R81). -/
  | endr
  deriving DecidableEq, Repr

/-- The value of a hexadecimal digit of either case (log entry 14). -/
def hexValue (c : Char) : Option Nat :=
  if 48 ≤ c.toNat ∧ c.toNat ≤ 57 then some (c.toNat - 48)
  else if 65 ≤ c.toNat ∧ c.toNat ≤ 70 then some (c.toNat - 55)
  else if 97 ≤ c.toNat ∧ c.toNat ≤ 102 then some (c.toNat - 87)
  else none

/-- The value of a decimal digit. -/
def decValue (c : Char) : Option Nat :=
  if 48 ≤ c.toNat ∧ c.toNat ≤ 57 then some (c.toNat - 48) else none

/-- A run of digits in a base, the most significant first; none on a character that is no digit. -/
def digitsFrom (base : Nat) (value : Char → Option Nat) : Nat → List Char → Option Nat
  | acc, [] => some acc
  | acc, c :: cs =>
    match value c with
    | some d => digitsFrom base value (base * acc + d) cs
    | none => none

/-- A decimal numeral (R79): at least one digit, leading zeros allowed (log entry 14). -/
def decimal (cs : List Char) : Option Nat := if cs = [] then none else digitsFrom 10 decValue 0 cs

/-- `imm32` and `imm24` (R79): `0x` and 1 to `n / 4` hexadecimal digits, the pattern itself, or a signed decimal integer
of `sN`, the sign against its digits (log entry 14); out of range is an assembly error, never truncated. -/
def immediate (n : Nat) (t : List Char) : Option (BitVec n) :=
  match t with
  | '0' :: 'x' :: ds =>
    if 1 ≤ ds.length ∧ ds.length ≤ n / 4 then (digitsFrom 16 hexValue 0 ds).map (BitVec.ofNat n) else none
  | '-' :: ds => (decimal ds).bind fun v => patternOfInt n (-(v : Int))
  | ds => (decimal ds).bind fun v => patternOfInt n (v : Int)

/-- A line's text before its comment (R79). -/
def beforeComment (l : List Char) : List Char := l.takeWhile (· ≠ ';')

/-- A token gathered in reverse, if there is one. -/
def flushToken (cur : List Char) : List (List Char) := if cur = [] then [] else [cur.reverse]

/-- The tokens of a line: runs of characters between white space, a comma being a token of its own (log entry 14). -/
def tokensFrom : List Char → List Char → List (List Char)
  | cur, [] => flushToken cur
  | cur, c :: cs =>
    if c = ' ' ∨ c = '\t' ∨ c = '\r' then flushToken cur ++ tokensFrom [] cs
    else if c = ',' then flushToken cur ++ [','] :: tokensFrom [] cs
    else tokensFrom (c :: cur) cs

/-- A statement's tokens as a line (R79), a mnemonic apart from its operand (log entry 14); none is an assembly error. -/
def lineOfTokens (ts : List (List Char)) : Option Line :=
  match ts with
  | [] => some .blank
  | [t] =>
    if t = "NOP".toList then some (.cmd .nop)
    else if t = "RSVD".toList then some (.cmd .rsvd)
    else if t = ".endr".toList then some .endr
    else none
  | [t, a] =>
    if t = "STEP".toList then (immediate 24 a).map fun x => .cmd (.step x)
    else if t = ".rept".toList then (decimal a).map .rept
    else none
  | [t, a, [','], b] =>
    if t = "INIT".toList then
      (immediate 32 a).bind fun kp0 => (immediate 32 b).map fun ki0 => .cmd (.init kp0 ki0)
    else none
  | _ => none

/-- One line of text (R79). The comment is dropped first on every line, so one may stand between the count of a `.rept`
and its newline, where the grammar writes the newline at once. DESIGN CHOICE (log entry 14): safe. -/
def parseLine (l : List Char) : Option Line := lineOfTokens (tokensFrom [] (beforeComment l))

/-- The commands of a list of lines, `.rept n` … `.endr` expanded to `n` copies in order (R81). The stack holds, for each
open `.rept`, its count and the commands before it; none where a `.rept` and its `.endr` do not pair up. -/
def expandFrom : List Instr → List (Nat × List Instr) → List Line → Option (List Instr)
  | cur, [], [] => some cur
  | _, _ :: _, [] => none
  | cur, st, .blank :: ls => expandFrom cur st ls
  | cur, st, .cmd i :: ls => expandFrom (cur ++ [i]) st ls
  | cur, st, .rept n :: ls => expandFrom [] ((n, cur) :: st) ls
  | cur, (n, before) :: st, .endr :: ls => expandFrom (before ++ (List.replicate n cur).flatten) st ls
  | _, [], .endr :: _ => none

/-- The commands of a program's lines (R81). -/
def expand (ls : List Line) : Option (List Instr) := expandFrom [] [] ls

/-- The lines of a text, gathered in reverse. -/
def linesFrom : List Char → List Char → List (List Char)
  | cur, [] => [cur.reverse]
  | cur, c :: cs => if c = '\n' then cur.reverse :: linesFrom [] cs else linesFrom (c :: cur) cs

/-- The lines of a text, read each; none where one is in error. -/
def parseLines : List (List Char) → Option (List Line)
  | [] => some []
  | l :: ls =>
    match parseLine l, parseLines ls with
    | some x, some xs => some (x :: xs)
    | _, _ => none

/-- Assembly of a program text into its command words (R79 to R81); none is an assembly error. -/
def assemble (text : List Char) : Option (List Cmd) :=
  ((parseLines (linesFrom [] text)).bind expand).map fun is => is.map encode

/-- A hexadecimal digit, upper case (R82, `%08X`). -/
def hexChar (d : Nat) : Char := if d < 10 then Char.ofNat (48 + d) else Char.ofNat (55 + d)

/-- The low `k` hexadecimal digits of a number, the most significant first. -/
def hexDigits : Nat → Nat → List Char
  | 0, _ => []
  | k + 1, v => hexChar (v / 16 ^ k % 16) :: hexDigits k v

/-- A command in assembler syntax, operands in `0x` form (R82). -/
def printInstr : Instr → List Char
  | .nop => "NOP".toList
  | .init kp0 ki0 => "INIT 0x".toList ++ hexDigits 8 kp0.toNat ++ ", 0x".toList ++ hexDigits 8 ki0.toNat
  | .step x => "STEP 0x".toList ++ hexDigits 6 x.toNat
  | .rsvd => "RSVD".toList

/-- Disassembly of a word (R82): ignored bits are not printed. -/
def disassemble (w : Cmd) : List Char := printInstr (decode w)

/-- The listing form of a word, `o_aaaaaaaa_bbbbbbbb` (R80). -/
def listing (w : Cmd) : List Char :=
  hexDigits 1 (opField w).toNat ++ '_' :: hexDigits 8 (aField w).toNat ++ '_' :: hexDigits 8 (bField w).toNat

end Sys2Proof.Machine
end

