-- ==== Sys2Proof/Safety.lean ====
section
/-! DEFINITION. What counts as a safe run (R160, R167, R202), the invariant of rule R39, and the contract of the sine
table (R51) as hypotheses that a claim may name. -/

namespace Sys2Proof

open Sys2Proof.Machine

/-- A run of decoded commands, in order, one at a time (R58, R160); it stops at the first command that is refused, and
such a run has no end state (R167). -/
def runInstrs : List Instr → State → Host.Outcome State Fault Refusal
  | [], s => .next s
  | i :: is, s =>
    match exec i s with
    | .next t => runInstrs is t
    | .fault r => .fault r
    | .refused r => .refused r

/-- A run is safe when it has an end state: no command of it was refused. -/
def SafeRun (is : List Instr) (s : State) : Prop := ∃ t, runInstrs is s = .next t

/-- The boot rule of R202 for the host: no `STEP` before the first `INIT`. The flag says whether `INIT` has been issued. -/
def hostObeys : Bool → List Instr → Bool
  | _, [] => true
  | b, .nop :: is => hostObeys b is
  | b, .rsvd :: is => hostObeys b is
  | _, .init _ _ :: is => hostObeys true is
  | b, .step _ :: is => b && hostObeys b is

/-- `INIT`, the only command that loads the gains (R166). -/
def Instr.isInit : Instr → Bool
  | .init _ _ => true
  | .nop => false
  | .step _ => false
  | .rsvd => false

/-- `INIT` or `STEP`: a command that may change a register (R29). -/
def Instr.isActive : Instr → Bool
  | .init _ _ => true
  | .step _ => true
  | .nop => false
  | .rsvd => false

/-- Rule R39 (c), (d), (f), once a first `INIT` has been executed, and what "initialized" means (R35, R38). Parts (a)
and (b) of the rule hold by the widths of the registers. -/
structure RegistersConsistent (c : Config.Params) (s : State) : Prop where
  deltaRange : s.phase ≠ .uninit → -67108864 ≤ s.deltaFreq.toInt ∧ s.deltaFreq.toInt ≤ 67108863
  freqIsNominalPlusDelta : s.phase ≠ .uninit → s.outFreq.toInt = c.f0 + s.deltaFreq.toInt
  quadrature : s.phase ≠ .uninit →
    ∃ i : Index, s.sinCached = c.sineTable i ∧ s.cosCached = c.sineTable (i + 256#10)
  initialized : s.phase = .initialized →
    s.theta = 0#30 ∧ s.integrator = 0#32 ∧ s.deltaFreq = 0#32 ∧
      s.sinCached = c.sineTable 0#10 ∧ s.cosCached = c.sineTable 256#10

/-- The contract of the table's contents (R51): each word is within one unit of `sin(2π·i/1024) · 2^30`, whichever
quantiser made it. A hypothesis only; no definition of the machine rests on it (log entry 4). -/
def SineContract (t : Index → Word) : Prop :=
  ∀ i : Index, |(((t i).toInt : ℤ) : ℝ) - Real.sin (2 * Real.pi * (i.toNat : ℝ) / 1024) * 2 ^ 30| < 1

/-- The four entries that no quantiser changes (R51). -/
def ExactEntries (t : Index → Word) : Prop :=
  t 0#10 = 0#32 ∧ t 256#10 = 0x40000000#32 ∧ t 512#10 = 0#32 ∧ t 768#10 = 0xC0000000#32

end Sys2Proof
end

