-- ==== Sys2Proof/Certificates/Slice0/Obligations.lean ====
section
/-! DEFINITION. The statements for the provers. Each docstring names the rule of spec/ that the statement formalises, or
the sections it rests on. A statement about `exec` is about the deployed block (log entries 4, 5, 6: reference values,
direct division, a table of open contents); a statement over `c : Config.Params` or `b : Config.Block` is about every
configuration. -/

open Sys2Proof Sys2Proof.Machine

/-! ### Encoding -/

/-- R74, R80: decoding the assembled word of a command gives the command back, with every operand at every value, and the
assembled word is canonical. -/
def Obligations.DecodeEncodeRoundTrip : Prop :=
  ∀ i : Instr, decode (encode i) = i ∧ canonical (encode i) = true

/-- R77, R80: assembling what a word decodes to gives the word back exactly when its ignored bits are all 0. -/
def Obligations.EncodeDecodeIffCanonical : Prop :=
  ∀ w : Cmd, encode (decode w) = w ↔ canonical w = true

/-- R77: a tick does not depend on `cmd[63:0]` in format N nor on `cmd[63:24]` in format S, and the assembler emits the
ignored bits as 0. -/
def Obligations.IgnoredBitsHaveNoEffect : Prop :=
  (∀ (w w' : Cmd) (rest : List Cmd) (s : State), opField w = 0b00#2 ∨ opField w = 0b11#2 → opField w' = opField w →
      step { s with cmds := w :: rest } = step { s with cmds := w' :: rest }) ∧
  (∀ (w w' : Cmd) (rest : List Cmd) (s : State), opField w = 0b10#2 → opField w' = opField w →
      (w.extractLsb' 0 24 : BitVec 24) = w'.extractLsb' 0 24 →
      step { s with cmds := w :: rest } = step { s with cmds := w' :: rest }) ∧
  (∀ i : Instr, i.opcode = 0b00#2 ∨ i.opcode = 0b11#2 → ((encode i).extractLsb' 0 64 : BitVec 64) = 0#64) ∧
  (∀ x : Sample, ((encode (.step x)).extractLsb' 24 40 : BitVec 40) = 0#40)

/-- R74: the opcode field alone selects the command, and exactly one of the four opcode-table rows covers each word, the
row of the command the word decodes to. -/
def Obligations.EveryWordIsExactlyOneCommand : Prop :=
  ∀ w : Cmd,
    (opField w = 0b00#2 ↔ decode w = .nop) ∧
    (opField w = 0b01#2 ↔ ∃ kp0 ki0, decode w = .init kp0 ki0) ∧
    (opField w = 0b10#2 ↔ ∃ x, decode w = .step x) ∧
    (opField w = 0b11#2 ↔ decode w = .rsvd) ∧
    ∃ r ∈ opcodeRows, r.covers w = true ∧ r.mnemonic = (decode w).mnemonic ∧
      ∀ r' ∈ opcodeRows, r'.covers w = true → r' = r

/-- R75, R76: the operands of `INIT` and `STEP` are the sign-extended fields of the word, in integers. -/
def Obligations.OperandsAreSignExtendedFields : Prop :=
  (∀ (w : Cmd) (kp0 ki0 : Word), decode w = .init kp0 ki0 →
    kp0.toInt = (if w.toNat / 2 ^ 32 % 2 ^ 32 < 2 ^ 31 then ((w.toNat / 2 ^ 32 % 2 ^ 32 : Nat) : Int)
      else ((w.toNat / 2 ^ 32 % 2 ^ 32 : Nat) : Int) - 2 ^ 32) ∧
    ki0.toInt = (if w.toNat % 2 ^ 32 < 2 ^ 31 then ((w.toNat % 2 ^ 32 : Nat) : Int)
      else ((w.toNat % 2 ^ 32 : Nat) : Int) - 2 ^ 32)) ∧
  (∀ (w : Cmd) (x : Sample), decode w = .step x →
    x.toInt = (if w.toNat % 2 ^ 24 < 2 ^ 23 then ((w.toNat % 2 ^ 24 : Nat) : Int)
      else ((w.toNat % 2 ^ 24 : Nat) : Int) - 2 ^ 24) ∧
    -8388608 ≤ x.toInt ∧ x.toInt ≤ 8388607)

/-- R80 and 95_test_vectors.md section 3.10: words written out by the spec decode to the commands it names, ignored bits
set or not. -/
def Obligations.WrittenWordsDecode : Prop :=
  decode 0x00000000000000000#66 = .nop ∧
  decode 0x0DEADBEEF12345678#66 = .nop ∧
  decode 0x12000000000147AE1#66 = .init 0x20000000#32 0x00147AE1#32 ∧
  decode 0x1FFFFFFFF80000000#66 = .init 0xFFFFFFFF#32 0x80000000#32 ∧
  decode 0x20000000000FFFFFF#66 = .step 0xFFFFFF#24 ∧
  decode 0x2DEADBEEFFF400000#66 = .step 0x400000#24 ∧
  decode 0x20000000001800000#66 = .step 0x800000#24 ∧
  decode 0x3FFFFFFFFFFFFFFFF#66 = .rsvd

/-- R82, R80: the assembler reads the disassembly of a command and assembles it into the command's canonical word. -/
def Obligations.AssembleOfPrintedCommand : Prop :=
  ∀ i : Instr, assemble (printInstr i) = some [encode i]

/-- R81: `.rept n` … `.endr` expands to `n` copies of what the enclosed lines expand to, in order, whatever follows. -/
def Obligations.ReptExpandsToCopies : Prop :=
  ∀ (n : Nat) (body after : List Line) (is js : List Instr),
    expand body = some is → expand after = some js →
      expand (.rept n :: body ++ .endr :: after) = some ((List.replicate n is).flatten ++ js)

/-- R208, R76: a host's sample in a wider integer is issued exactly when it is in `[-2^23, 2^23 - 1]`, and then as itself. -/
def Obligations.WideSampleRefusedOutOfRange : Prop :=
  ∀ v : Int,
    (-8388608 ≤ v → v ≤ 8388607 → ∃ x : Sample, sampleOfInt v = some x ∧ x.toInt = v) ∧
    (v < -8388608 ∨ 8388607 < v → sampleOfInt v = none)

/-! ### Fixed-point primitives -/

/-- R91: `SAT32` clamps, and is monotone and idempotent. -/
def Obligations.SaturationClampsToRange : Prop :=
  (∀ v : Int, (v < -2147483648 → sat32 v = 0x80000000#32) ∧
      (2147483647 < v → sat32 v = 0x7FFFFFFF#32) ∧
      (-2147483648 ≤ v → v ≤ 2147483647 → (sat32 v).toInt = v)) ∧
  (∀ v w : Int, v ≤ w → (sat32 v).toInt ≤ (sat32 w).toInt) ∧
  (∀ v : Int, sat32 (sat32 v).toInt = sat32 v)

/-- R92: `SATADD` is the exact sum clamped once, commutative, with 0 neutral, and not associative. -/
def Obligations.SaturatingAdditionClampsExactSum : Prop :=
  (∀ a b : Word, (satAdd a b).toInt = max (-2147483648) (min 2147483647 (a.toInt + b.toInt))) ∧
  (∀ a b : Word, satAdd a b = satAdd b a) ∧
  (∀ a : Word, satAdd a 0#32 = a) ∧
  satAdd (satAdd 0x7FFFFFFF#32 1#32) 0xFFFFFFFF#32 ≠ satAdd 0x7FFFFFFF#32 (satAdd 1#32 0xFFFFFFFF#32)

/-- R93: `ASR` is the floor of the quotient by `2^n`. -/
def Obligations.ArithmeticShiftIsFloor : Prop :=
  ∀ (v q : Int) (n : Nat), asr v n = q ↔ q * 2 ^ n ≤ v ∧ v < (q + 1) * 2 ^ n

/-- R94: `QMUL30` is the clamp of the floor of the full product over `2^30`; it is commutative, has 1.0 as identity and
0 as zero, and is not associative. -/
def Obligations.FixedMultiplyIsClampedFloor : Prop :=
  (∀ (a b : Word) (q : Int), q * 1073741824 ≤ a.toInt * b.toInt → a.toInt * b.toInt < (q + 1) * 1073741824 →
      (qmul30 a b).toInt = max (-2147483648) (min 2147483647 q)) ∧
  (∀ a b : Word, qmul30 a b = qmul30 b a) ∧
  (∀ b : Word, qmul30 0#32 b = 0#32) ∧
  (∀ b : Word, qmul30 0x40000000#32 b = b) ∧
  (∃ a b c : Word, qmul30 (qmul30 a b) c ≠ qmul30 a (qmul30 b c))

/-- R95: `NEGS` negates exactly, except that `INT32_MIN` gives `INT32_MAX`. -/
def Obligations.NegationSaturatesOnlyAtMinimum : Prop :=
  ∀ a : Word, (a = 0x80000000#32 → negs a = 0x7FFFFFFF#32) ∧ (a ≠ 0x80000000#32 → (negs a).toInt = -a.toInt)

/-- R96: the multiplier is not odd-symmetric: negating an operand negates the result, less 1 where bits were dropped,
for results that do not clamp. -/
def Obligations.MultiplyOfNegatedOperand : Prop :=
  ∀ a b : Word, a ≠ 0x80000000#32 →
    (-2147483648 ≤ asr (a.toInt * b.toInt) 30 ∧ asr (a.toInt * b.toInt) 30 ≤ 2147483647) →
    (-2147483648 ≤ asr (-(a.toInt * b.toInt)) 30 ∧ asr (-(a.toInt * b.toInt)) 30 ≤ 2147483647) →
      (a.toInt * b.toInt % 1073741824 = 0 → (qmul30 (-a) b).toInt = -(qmul30 a b).toInt) ∧
      (a.toInt * b.toInt % 1073741824 ≠ 0 → (qmul30 (-a) b).toInt = -(qmul30 a b).toInt - 1)

/-- R97 (which the spec marks as derived from R92, R94, R95, R141, R142), R125: 64 bits hold every intermediate value. Each
unit is what its 64-bit computation gives: operands sign-extended to 64 bits, one 64-bit operation that may wrap, the
arithmetic shift, then the clamp; `PHINC` likewise for every accepted configuration, without a clamp. The ranges are the
rule's own, and at `FS` = 40000 the reciprocal is below `2^32` exactly for `K <= 47`. -/
def Obligations.IntermediatesFitSixtyFourBits : Prop :=
  (let clamp : BitVec 64 → Word := fun v =>
      if v.slt (BitVec.ofInt 64 (-2147483648)) then 0x80000000#32
      else if (2147483647#64).slt v then 0x7FFFFFFF#32 else v.setWidth 32;
    (∀ a b : Word, satAdd a b = clamp (a.signExtend 64 + b.signExtend 64)) ∧
    (∀ a b : Word, qmul30 a b = clamp ((a.signExtend 64 * b.signExtend 64).sshiftRight 30)) ∧
    (∀ a : Word, negs a = clamp (-a.signExtend 64)) ∧
    (∀ u : Word, u2df u = clamp ((u.signExtend 64).sshiftRight 5))) ∧
  (∀ (c : Config.Params) (f : Word), c.wf = true →
    (c.phincMode = .div → phinc c f.toInt = (f.signExtend 64 * 32#64).toInt / (c.fs : Int)) ∧
    (∀ k, c.phincMode = .recip k →
      phinc c f.toInt = ((f.signExtend 64 * BitVec.ofNat 64 (recipR k c.fs)).sshiftRight (k - 5)).toInt ∧
      -9223372036854775808 ≤ f.toInt * (recipR k c.fs : Int) ∧
      f.toInt * (recipR k c.fs : Int) ≤ 9223372036854775807)) ∧
  (∀ k : Nat, recipR k 40000 < 4294967296 ↔ k ≤ 47) ∧
  (∀ a b : Word, -4611686018427387904 + 2147483648 ≤ a.toInt * b.toInt ∧ a.toInt * b.toInt ≤ 4611686018427387904) ∧
  (∀ a b : Word, -4294967296 ≤ a.toInt + b.toInt ∧ a.toInt + b.toInt ≤ 4294967294) ∧
  (∀ a : Word, -2147483647 ≤ -a.toInt ∧ -a.toInt ≤ 2147483648) ∧
  (∀ f : Word, -68719476736 ≤ f.toInt * 32 ∧ f.toInt * 32 ≤ 68719476736)

/-! ### Oscillator -/

/-- R110: the sine index is bits 29:20 of any 32-bit value, the cosine index is 256 further modulo 1024, and wraps exactly
when the sine index is 768 or more. -/
def Obligations.OscillatorIndices : Prop :=
  ∀ v : Word, (sidx v).toNat = v.toNat / 2 ^ 20 % 2 ^ 10 ∧ (cidx v).toNat = ((sidx v).toNat + 256) % 1024 ∧
    ((cidx v).toNat < (sidx v).toNat ↔ 768 ≤ (sidx v).toNat)

/-- R111, R112, R113: the outputs are the table words at the two indices of the phase, for every table; the sine at 0 and
at the quarter turns and the cosine at 0 are the entries the source names. The last clause, the cosine at three quarters
of a turn, is a sentence of R112 that the spec marks as its own inference from R110. -/
def Obligations.OscillatorOutputsAreTableWords : Prop :=
  ∀ c : Config.Params,
    (∀ theta : Theta,
      ncoSin c theta = c.sineTable (BitVec.ofNat 10 (theta.toNat / 2 ^ 20)) ∧
      ncoCos c theta = c.sineTable (BitVec.ofNat 10 ((theta.toNat / 2 ^ 20 + 256) % 1024))) ∧
    ncoSin c 0#30 = c.sineTable 0#10 ∧ ncoCos c 0#30 = c.sineTable 256#10 ∧
    ncoSin c 0x10000000#30 = c.sineTable 256#10 ∧ ncoSin c 0x20000000#30 = c.sineTable 512#10 ∧
    ncoSin c 0x30000000#30 = c.sineTable 768#10 ∧ ncoCos c 0x30000000#30 = c.sineTable 0#10

/-- R52: a command that answers makes either no table read and keeps the two cached outputs, or exactly the two reads
whose words it leaves in them, the second a quarter turn after the first. -/
def Obligations.TwoReadsFillTheCaches : Prop :=
  ∀ (i : Instr) (s t : State), exec i s = .next t →
    (romReads i s = [] ∧ t.sinCached = s.sinCached ∧ t.cosCached = s.cosCached) ∨
    ∃ a : Index, romReads i s = [a, a + 256#10] ∧
      t.sinCached = block.params.sineTable a ∧ t.cosCached = block.params.sineTable (a + 256#10)

/-- R51: a table within one unit of the ideal sine has the four exact entries, so a proof may take either as its
hypothesis (the contract's form in real numbers is log entry 4). -/
def Obligations.SineContractGivesExactEntries : Prop :=
  ∀ t : Index → Word, SineContract t → ExactEntries t

/-! ### Phase detector and PI controller -/

/-- R120: the rescaling is exact; R120 with R76: it stays in `[-2^31, 2^31 - 256]` and leaves the low 8 bits 0, a
sentence the spec marks as its own inference from the sample range of R76. -/
def Obligations.RescalingIsLossless : Prop :=
  ∀ x : Sample, (rescale x).toInt = x.toInt * 256 ∧ -2147483648 ≤ (rescale x).toInt ∧
    (rescale x).toInt ≤ 2147483648 - 256 ∧ ((rescale x).extractLsb' 0 8 : BitVec 8) = 0#8

/-- R121: the detector multiplies, floors and clamps first and then negates with a clamp; a zero sine gives no error. -/
def Obligations.DetectorNegatesTheClampedProduct : Prop :=
  (∀ x30 s : Word, (pd x30 s).toInt =
      min 2147483647 (-(max (-2147483648) (min 2147483647 (x30.toInt * s.toInt / 1073741824))))) ∧
  (∀ x30 : Word, pd x30 0#32 = 0#32)

/-- R24, R123: an integrator at `INT32_MAX` stays there on a positive term and leaves it by exactly a negative term; the
mirror holds at `INT32_MIN`. -/
def Obligations.IntegratorLeavesTheRailAtOnce : Prop :=
  (∀ e : Word, 0 ≤ e.toInt → integrate 0x7FFFFFFF#32 e = 0x7FFFFFFF#32) ∧
  (∀ e : Word, e.toInt < 0 → (integrate 0x7FFFFFFF#32 e).toInt = 2147483647 + e.toInt) ∧
  (∀ e : Word, e.toInt ≤ 0 → integrate 0x80000000#32 e = 0x80000000#32) ∧
  (∀ e : Word, 0 < e.toInt → (integrate 0x80000000#32 e).toInt = -2147483648 + e.toInt)

/-- R125: the correction is the floor of `u / 32`; its clamp never engages, and it lies in `[-2^26, 2^26 - 1]`. -/
def Obligations.CorrectionIsFloorOfControllerOutput : Prop :=
  ∀ u : Word, (u2df u).toInt * 32 ≤ u.toInt ∧ u.toInt < ((u2df u).toInt + 1) * 32 ∧
    -67108864 ≤ (u2df u).toInt ∧ (u2df u).toInt ≤ 67108863

/-- R126, R10: under every configuration that passes rule R10, and for every correction the controller can give, the
frequency is the exact sum. -/
def Obligations.OutputFrequencyIsExactSum : Prop :=
  ∀ (c : Config.Params) (u : Word), c.wf = true → (outf c (u2df u)).toInt = c.f0 + (u2df u).toInt

/-- R128, R163: with a zero sine or a zero sample there is no error, the integrator keeps its value, and the controller
output is the integrator. -/
def Obligations.ZeroSineOrSampleGivesNoError : Prop :=
  ∀ (c : Config.Params) (kp ki integrator : Word) (x : Sample) (s : Word), s = 0#32 ∨ x = 0#24 →
    (pdpi c kp ki integrator x s).qerr = 0#32 ∧ (pdpi c kp ki integrator x s).p = 0#32 ∧
    (pdpi c kp ki integrator x s).iterm = 0#32 ∧ (pdpi c kp ki integrator x s).integrator = integrator ∧
    (pdpi c kp ki integrator x s).u = integrator

/-! ### Converter and accumulator -/

/-- R141: the direct division is the floor of `F * 32 / FS`. -/
def Obligations.DirectDivisionIsFloor : Prop :=
  ∀ (fs : Nat) (f q : Int), 0 < fs → (phincDiv fs f = q ↔ q * (fs : Int) ≤ f * 32 ∧ f * 32 < (q + 1) * (fs : Int))

/-- R142: the reciprocal is `2^K / FS` rounded half up, and the increment is the floor of the product over `2^(K-5)`. -/
def Obligations.ReciprocalMultiplyScaling : Prop :=
  ∀ (k fs : Nat) (f : Int), 0 < fs → 5 ≤ k →
    2 * recipR k fs * fs ≤ 2 * 2 ^ k + fs ∧ 2 * 2 ^ k < 2 * recipR k fs * fs + fs ∧
    phincRecip k fs f * 2 ^ (k - 5) ≤ f * (recipR k fs : Int) ∧
    f * (recipR k fs : Int) < (phincRecip k fs f + 1) * 2 ^ (k - 5)

/-- R143, R144, C1: at `FS` = 40000 no accepted block has `RECIP(32)` or `RECIP(33)`, while the configurations with
`RECIP(34)`, `RECIP(35)`, `RECIP(36)` pass both checks with any table. -/
def Obligations.AdmittedReciprocals : Prop :=
  (∀ b : Config.Block, b.params.fs = 40000 → b.params.phincMode ≠ .recip 32 ∧ b.params.phincMode ≠ .recip 33) ∧
  (∀ (k : Nat) (t : Index → Word), k = 34 ∨ k = 35 ∨ k = 36 →
    ({ phincMode := .recip k, sineTable := t } : Config.Params).wf = true ∧
    ({ phincMode := .recip k, sineTable := t } : Config.Params).Agrees)

/-- R145: whichever converter an accepted block at `FS` = 40000 has, the increment of every reachable frequency is
positive and below `2^21`. -/
def Obligations.IncrementIsPositiveAndSmall : Prop :=
  ∀ (b : Config.Block) (f : Int), b.params.fs = 40000 → 0x60000000 ≤ f → f ≤ 0x67FFFFFF →
    0 < phinc b.params f ∧ phinc b.params f < 2097152

/-- R150: the phase advance is addition modulo `2^30` for every integer increment, which is the source's 32-bit addition
followed by the mask `0x3FFFFFFF`; a zero increment changes nothing. -/
def Obligations.PhaseAdvanceWraps : Prop :=
  (∀ (theta : Theta) (inc : Int), ((phadv theta inc).toNat : Int) = ((theta.toNat : Int) + inc) % 2 ^ 30) ∧
  (∀ (theta : Theta) (inc : Int),
    presented (phadv theta inc) = (presented theta + BitVec.ofInt 32 inc) &&& 0x3FFFFFFF#32) ∧
  (∀ theta : Theta, phadv theta 0 = theta)

/-! ### Commands -/

/-- R161, R164: `NOP` and `RSVD` complete in every state, change nothing and read nothing. -/
def Obligations.NopAndRsvdChangeNothing : Prop :=
  ∀ s : State, exec .nop s = .next s ∧ exec .rsvd s = .next s ∧ romReads .nop s = [] ∧ romReads .rsvd s = []

/-- R162, R38: `INIT` completes in every state and leaves exactly these registers, the words still to come untouched.
`out_freq` is `0x64000000` because the deployed block has the reference `F0`, the model's choice (log entry 6). -/
def Obligations.InitSetsEveryRegister : Prop :=
  ∀ (kp0 ki0 : Word) (s : State), exec (.init kp0 ki0) s = .next
    { kp := kp0, ki := ki0, theta := 0#30, integrator := 0#32, sinCached := block.params.sineTable 0#10,
      cosCached := block.params.sineTable 256#10, outFreq := 0x64000000#32, deltaFreq := 0#32,
      phase := .initialized, cmds := s.cmds }

/-- R163: `STEP` completes after the first `INIT`, and its registers are those of the rule's pseudocode, written here in
integers beside the model's units, with the block's `F0`, table and converter; `kp`, `ki` and the words still to come
are unchanged. -/
def Obligations.StepComputesTheDatapath : Prop :=
  ∀ (x : Sample) (s : State), s.phase ≠ .uninit → ∃ t : State, exec (.step x) s = .next t ∧
    let clamp : Int → Int := fun v => if v < -2147483648 then -2147483648 else if 2147483647 < v then 2147483647 else v
    let mul : Int → Int → Int := fun a b => clamp (a * b / 1073741824)
    let si : Nat := s.theta.toNat / 2 ^ 20
    let sine : Word := block.params.sineTable (BitVec.ofNat 10 si)
    let qerr := clamp (-(mul (x.toInt * 256) sine.toInt))
    let integ := clamp (s.integrator.toInt + mul s.ki.toInt qerr)
    let u := clamp (mul s.kp.toInt qerr + integ)
    let df := clamp (u / 32)
    let freq := block.params.f0 + df
    let inc := phinc block.params freq
    t.sinCached = sine ∧ t.cosCached = block.params.sineTable (BitVec.ofNat 10 ((si + 256) % 1024)) ∧
    t.integrator.toInt = integ ∧ t.deltaFreq.toInt = df ∧ t.outFreq.toInt = freq ∧
    (t.theta.toNat : Int) = ((s.theta.toNat : Int) + inc) % 2 ^ 30 ∧
    t.kp = s.kp ∧ t.ki = s.ki ∧ t.phase = .running ∧ t.cmds = s.cmds

/-- R165: a `STEP` in phase `UNINIT` is refused, so a run whose first active command is a `STEP` before any `INIT` is
refused at it, whatever `NOP`s and `RSVD`s come before it and whatever comes after. -/
def Obligations.StepBeforeInitIsRefused : Prop :=
  (∀ (x : Sample) (s : State), s.phase = .uninit → exec (.step x) s = .refused .stepBeforeInit) ∧
  (∀ (idle after : List Instr) (x : Sample) (s : State), s.phase = .uninit → (∀ i ∈ idle, i.isActive = false) →
    runInstrs (idle ++ .step x :: after) s = .refused .stepBeforeInit)

/-- R180, R160, R165: every command completes in every state, except a `STEP` before the first `INIT`; no command
faults. -/
def Obligations.OnlyAnEarlyStepStops : Prop :=
  ∀ (i : Instr) (s : State), (∃ t, exec i s = .next t) ∨
    (exec i s = .refused .stepBeforeInit ∧ s.phase = .uninit ∧ ∃ x, i = .step x)

/-- R35, R167: the lifecycle after a command that completes. -/
def Obligations.LifecycleTransitions : Prop :=
  ∀ (i : Instr) (s t : State), exec i s = .next t →
    (i = .nop ∨ i = .rsvd → t.phase = s.phase) ∧
    (∀ kp0 ki0, i = .init kp0 ki0 → t.phase = .initialized) ∧
    (∀ x, i = .step x → (s.phase = .initialized ∨ s.phase = .running) ∧ t.phase = .running)

/-- R166: what `INIT` leaves does not depend on the registers and the phase before it, and twice in a row is as once.
The registers it leaves are `InitSetsEveryRegister`'s. -/
def Obligations.InitIgnoresTheStateAndIsIdempotent : Prop :=
  (∀ (kp0 ki0 : Word) (s s' : State), s.cmds = s'.cmds → exec (.init kp0 ki0) s = exec (.init kp0 ki0) s') ∧
  (∀ (kp0 ki0 : Word) (s t u : State), exec (.init kp0 ki0) s = .next t → exec (.init kp0 ki0) t = .next u → u = t)

/-- R22, R29, R163: frame of the gains, over one command and over one tick: only `INIT` changes `kp` or `ki`. -/
def Obligations.OnlyInitChangesTheGains : Prop :=
  (∀ (i : Instr) (s t : State), exec i s = .next t → i.isInit = false → t.kp = s.kp ∧ t.ki = s.ki ∧ t.cmds = s.cmds) ∧
  (∀ s t : State, step s = .next t → t.kp ≠ s.kp ∨ t.ki ≠ s.ki →
    ∃ w rest, s.cmds = w :: rest ∧ opField w = 0b01#2)

/-- R25, R26, R27, R29: the stored `sin_cached`, `cos_cached`, `out_freq` and `delta_freq` influence nothing: a run from a
state in which they hold anything else ends likewise, with the same `kp`, `ki`, `theta`, `integrator`, and in the same
state altogether once the run holds an `INIT` or a `STEP`. -/
def Obligations.OutputRegistersInfluenceNothing : Prop :=
  ∀ (is : List Instr) (s t : State) (a b f d : Word), runInstrs is s = .next t →
    ∃ u, runInstrs is { s with sinCached := a, cosCached := b, outFreq := f, deltaFreq := d } = .next u ∧
      u.kp = t.kp ∧ u.ki = t.ki ∧ u.theta = t.theta ∧ u.integrator = t.integrator ∧ u.phase = t.phase ∧
      u.cmds = t.cmds ∧ (is.any Instr.isActive = true → u = t)

/-- R26, R27, R126: after a `STEP` of the deployed block the correction is within 2 Hz and the frequency between 48 Hz
and 52 Hz less one unit, and exactly nominal plus correction (the reference `F0` is log entry 6). -/
def Obligations.StepConfinesTheFrequency : Prop :=
  ∀ (x : Sample) (s t : State), exec (.step x) s = .next t →
    -67108864 ≤ t.deltaFreq.toInt ∧ t.deltaFreq.toInt ≤ 67108863 ∧
    1610612736 ≤ t.outFreq.toInt ∧ t.outFreq.toInt ≤ 1744830463 ∧ t.outFreq.toInt = 1677721600 + t.deltaFreq.toInt

/-- R163 (corner case), R162: under every accepted configuration whose table has `T[0] = 0`, the first `STEP` after `INIT`
has no error whatever the sample: the integrator stays 0, the frequency nominal, and the phase is the increment of the
nominal frequency modulo one turn. -/
def Obligations.FirstStepAfterInitHasNoError : Prop :=
  ∀ (b : Config.Block) (kp0 ki0 : Word) (x : Sample) (s : State), b.params.sineTable 0#10 = 0#32 →
    (sampleTick b.params x (initialise b.params kp0 ki0 s)).integrator = 0#32 ∧
    (sampleTick b.params x (initialise b.params kp0 ki0 s)).outFreq.toInt = b.params.f0 ∧
    (sampleTick b.params x (initialise b.params kp0 ki0 s)).deltaFreq = 0#32 ∧
    ((sampleTick b.params x (initialise b.params kp0 ki0 s)).theta.toNat : Int) = phinc b.params b.params.f0 % 2 ^ 30

/-- R163 (corner case): with zero gains and a zero integrator the block is a free-running oscillator at the nominal
frequency, whatever the sample (direct division and reference values are log entries 5 and 6). -/
def Obligations.ZeroGainsRunFree : Prop :=
  ∀ (x : Sample) (s : State), s.phase ≠ .uninit → s.kp = 0#32 → s.ki = 0#32 → s.integrator = 0#32 →
    ∃ t, exec (.step x) s = .next t ∧ t.integrator = 0#32 ∧ t.deltaFreq = 0#32 ∧ t.outFreq = 0x64000000#32 ∧
      t.theta.toNat = (s.theta.toNat + 1342177) % 2 ^ 30

/-- R143, R144, R150: whichever converter an accepted block at `FS` = 40000 has, a sample tick that leaves a frequency
in the tracking range advances the phase, modulo one turn, by the direct division's increment to within one unit. -/
def Obligations.PhaseAdvanceWithinOneUnit : Prop :=
  ∀ (b : Config.Block) (x : Sample) (s : State), b.params.fs = 40000 →
    45 * 33554432 ≤ (sampleTick b.params x s).outFreq.toInt → (sampleTick b.params x s).outFreq.toInt ≤ 55 * 33554432 →
    ∃ inc : Int, ((sampleTick b.params x s).theta.toNat : Int) = ((s.theta.toNat : Int) + inc) % 2 ^ 30 ∧
      (sampleTick b.params x s).outFreq.toInt * 32 / 40000 - 1 ≤ inc ∧
      inc ≤ (sampleTick b.params x s).outFreq.toInt * 32 / 40000 + 1

/-! ### The tick, the reset state and the ports -/

/-- R70, R71, R160: a tick with a command word on the port decodes it and runs it to completion, with the host's later
words still to come. That a tick with no word holds the state is the model's choice for the end of the host's commands
(log entry 1; R167, R191). -/
def Obligations.TickRunsTheDecodedCommand : Prop :=
  (∀ (s : State) (w : Cmd) (rest : List Cmd), s.cmds = w :: rest → step s = exec (decode w) { s with cmds := rest }) ∧
  (∀ s : State, s.cmds = [] → step s = .next s)

/-- R35, R37, R200: at power-on the phase is `UNINIT`. The register values (log entry 2: free values) and the empty port
(log entry 1) are the model's choice. -/
def Obligations.PowerOnState : Prop :=
  State.reset.phase = .uninit ∧ State.reset.cmds = [] ∧
    State.reset.kp = Config.powerOn 0 ∧ State.reset.ki = Config.powerOn 1 ∧
    State.reset.theta = (Config.powerOn 2).setWidth 30 ∧ State.reset.integrator = Config.powerOn 3 ∧
    State.reset.sinCached = Config.powerOn 4 ∧ State.reset.cosCached = Config.powerOn 5 ∧
    State.reset.outFreq = Config.powerOn 6 ∧ State.reset.deltaFreq = Config.powerOn 7

/-- R40, R70, R15: the ports show the eight registers, `x[i]` in order, `theta` zero-extended. -/
def Obligations.PortsShowTheRegisters : Prop :=
  ∀ s : State,
    s.ports =
      { kp := s.kp, ki := s.ki, theta := s.theta.setWidth 32, integrator := s.integrator,
        sinCached := s.sinCached, cosCached := s.cosCached, outFreq := s.outFreq, deltaFreq := s.deltaFreq } ∧
    [s.x 0, s.x 1, s.x 2, s.x 3, s.x 4, s.x 5, s.x 6, s.x 7] =
      [s.ports.kp, s.ports.ki, s.ports.theta, s.ports.integrator, s.ports.sinCached, s.ports.cosCached,
        s.ports.outFreq, s.ports.deltaFreq]

/-- R152, R23: the presented phase is the register's value, below one turn, so bits 31:30 of the port are 0. -/
def Obligations.PresentedPhaseBelowOneTurn : Prop :=
  ∀ s : State, s.ports.theta.toNat = s.theta.toNat ∧ s.ports.theta.toNat < 2 ^ 30 ∧
    (s.ports.theta.extractLsb' 30 2 : BitVec 2) = 0#2

/-- The invariant of `InvariantKeptByEveryTick` holds at power-on. -/
def Obligations.InvariantHoldsAtPowerOn : Prop := RegistersConsistent block.params State.reset

/-! ### Whole-machine rules -/

/-- R39 (a) to (d), (f): every tick from every state keeps the invariant: the correction's range, frequency equal to
nominal plus correction, the two cached outputs one table entry and the entry a quarter turn later, and what
"initialized" means. -/
def Obligations.InvariantKeptByEveryTick : Prop :=
  ∀ s t : State, RegistersConsistent block.params s → Sys2Proof.Machine.step s = .next t →
    RegistersConsistent block.params t

/-- R39 (e), R22: after any commands that hold no `INIT`, the gains are the operands of the last `INIT` before them. -/
def Obligations.GainsAreThoseOfTheLastInit : Prop :=
  ∀ (before after : List Instr) (kp0 ki0 : Word) (s t : State), (∀ i ∈ after, i.isInit = false) →
    runInstrs (before ++ .init kp0 ki0 :: after) s = .next t → t.kp = kp0 ∧ t.ki = ki0

/-- R168: a run after `INIT` is a function of the gains and the samples: it does not depend on the state before, and
interleaved `NOP` and `RSVD` do not change it. -/
def Obligations.TrajectoryIsFunctionOfGainsAndSamples : Prop :=
  ∀ (kp0 ki0 : Word) (is js : List Instr) (s s' : State), s.cmds = s'.cmds →
    is.filter Instr.isActive = js.filter Instr.isActive →
      runInstrs (.init kp0 ki0 :: is) s = runInstrs (.init kp0 ki0 :: js) s'

/-- R202, R180: a host that issues no `STEP` before the first `INIT` is never refused, from any state. -/
def Obligations.ObedientHostIsNeverRefused : Prop :=
  ∀ (is : List Instr) (s : State), hostObeys (decide (s.phase ≠ .uninit)) is = true → SafeRun is s

/-- R58, R160: ticking once for each presented word is running the decoded commands one at a time in the order
presented. That the host's words stand in the state as a list is the model's choice (log entry 1). -/
def Obligations.PresentedWordsRunInOrder : Prop :=
  ∀ (ws : List Cmd) (s : State),
    Host.Core.run Sys2Proof.core ws.length ({ s with cmds := ws } : State) =
      runInstrs (ws.map decode) { s with cmds := [] }

/-- R209, R191: with no command presented nothing changes, for any number of ticks. -/
def Obligations.NothingChangesWithoutCommands : Prop :=
  ∀ (n : Nat) (s : State), s.cmds = [] → Host.Core.run Sys2Proof.core n s = .next s

/-- R152: with zero input and a zero integrator the deployed block's phase advances by 1342177 a step, modulo one turn,
for any number of steps; the integrator stays 0 (direct division and reference values are log entries 5 and 6). -/
def Obligations.ZeroInputPhaseAfterAnySteps : Prop :=
  ∀ (n : Nat) (s : State), s.phase ≠ .uninit → s.integrator = 0#32 →
    ∃ t, runInstrs (List.replicate n (.step 0#24)) s = .next t ∧ t.integrator = 0#32 ∧
      t.theta.toNat = (s.theta.toNat + n * 1342177) % 2 ^ 30
end

