-- ==== Sys2Proof/Laws/Encoding.lean ====
section
/-! SUPPORT. The fields of an assembled word, and the masked bits of a word (R72 to R74). -/

namespace Sys2Proof.Machine

/-- The opcode field of an assembled word. -/
theorem opField_wordOfFields (op : BitVec 2) (a b : Word) : opField (wordOfFields op a b) = op := by
  unfold opField wordOfFields
  ext j hj
  simp only [BitVec.getElem_extractLsb', BitVec.getLsbD_append]
  have h1 : ¬ (64 + j < 32) := by omega
  have h2 : ¬ (64 + j - 32 < 32) := by omega
  have h3 : 64 + j - 32 - 32 = j := by omega
  simp [h1, h2, h3, BitVec.getLsbD_eq_getElem hj]

/-- The `a` field of an assembled word. -/
theorem aField_wordOfFields (op : BitVec 2) (a b : Word) : aField (wordOfFields op a b) = a := by
  unfold aField wordOfFields
  ext j hj
  simp only [BitVec.getElem_extractLsb', BitVec.getLsbD_append]
  have h1 : ¬ (32 + j < 32) := by omega
  have h3 : 32 + j - 32 = j := by omega
  simp [h1, h3, hj]

/-- The `b` field of an assembled word. -/
theorem bField_wordOfFields (op : BitVec 2) (a b : Word) : bField (wordOfFields op a b) = b := by
  unfold bField wordOfFields
  ext j hj
  simp only [BitVec.getElem_extractLsb', BitVec.getLsbD_append]
  simp [hj]

/-- The mask of every opcode-table row keeps the opcode field. -/
theorem and_opMask (w : Cmd) : w &&& 0x30000000000000000#66 = wordOfFields (opField w) 0#32 0#32 := by
  have e : (0x30000000000000000#66 : Cmd) = wordOfFields 3#2 0#32 0#32 := by decide
  rw [e]
  apply BitVec.eq_of_getLsbD_eq
  intro j hj
  unfold opField wordOfFields
  simp only [BitVec.getLsbD_and, BitVec.getLsbD_append, BitVec.getLsbD_extractLsb', BitVec.getLsbD_zero]
  by_cases h1 : j < 32
  · simp [h1]
  · by_cases h2 : j - 32 < 32
    · simp [h1, h2]
    · have h4 : j = 64 ∨ j = 65 := by omega
      rcases h4 with rfl | rfl <;> simp

end Sys2Proof.Machine
end

