-- ==== Sys2Proof/Laws/State.lean ====
section
/-! SUPPORT. The fields of the state after each update: one lemma per field per update, so that no proof unfolds a record
update. -/

namespace Sys2Proof.Machine

section
variable (c : Config.Params) (kp0 ki0 : Word) (x : Sample) (s : State) (ws : List Cmd) (w : Option Cmd)

@[simp] theorem initialise_kp : (initialise c kp0 ki0 s).kp = kp0 := rfl
@[simp] theorem initialise_ki : (initialise c kp0 ki0 s).ki = ki0 := rfl
@[simp] theorem initialise_theta : (initialise c kp0 ki0 s).theta = 0#30 := rfl
@[simp] theorem initialise_integrator : (initialise c kp0 ki0 s).integrator = 0#32 := rfl
@[simp] theorem initialise_sinCached : (initialise c kp0 ki0 s).sinCached = tableRead c 0#10 := rfl
@[simp] theorem initialise_cosCached : (initialise c kp0 ki0 s).cosCached = tableRead c 256#10 := rfl
@[simp] theorem initialise_outFreq : (initialise c kp0 ki0 s).outFreq = BitVec.ofInt 32 c.f0 := rfl
@[simp] theorem initialise_deltaFreq : (initialise c kp0 ki0 s).deltaFreq = 0#32 := rfl
@[simp] theorem initialise_phase : (initialise c kp0 ki0 s).phase = .initialized := rfl
@[simp] theorem initialise_cmds : (initialise c kp0 ki0 s).cmds = s.cmds := rfl

@[simp] theorem sampleTick_kp : (sampleTick c x s).kp = s.kp := by
  simp only [sampleTick]
@[simp] theorem sampleTick_ki : (sampleTick c x s).ki = s.ki := by
  simp only [sampleTick]
@[simp] theorem sampleTick_theta : (sampleTick c x s).theta = phadv s.theta (increment c x s) := by
  simp only [sampleTick]
@[simp] theorem sampleTick_integrator : (sampleTick c x s).integrator = (controlWires c x s).integrator := by
  simp only [sampleTick]
@[simp] theorem sampleTick_sinCached : (sampleTick c x s).sinCached = ncoSin c s.theta := by
  simp only [sampleTick]
@[simp] theorem sampleTick_cosCached : (sampleTick c x s).cosCached = ncoCos c s.theta := by
  simp only [sampleTick]
@[simp] theorem sampleTick_outFreq : (sampleTick c x s).outFreq = (controlWires c x s).outFreq := by
  simp only [sampleTick]
@[simp] theorem sampleTick_deltaFreq : (sampleTick c x s).deltaFreq = (controlWires c x s).deltaFreq := by
  simp only [sampleTick]
@[simp] theorem sampleTick_phase : (sampleTick c x s).phase = .running := by
  simp only [sampleTick]
@[simp] theorem sampleTick_cmds : (sampleTick c x s).cmds = s.cmds := by
  simp only [sampleTick]

@[simp] theorem present_kp : (present ws s).kp = s.kp := rfl
@[simp] theorem present_ki : (present ws s).ki = s.ki := rfl
@[simp] theorem present_theta : (present ws s).theta = s.theta := rfl
@[simp] theorem present_integrator : (present ws s).integrator = s.integrator := rfl
@[simp] theorem present_sinCached : (present ws s).sinCached = s.sinCached := rfl
@[simp] theorem present_cosCached : (present ws s).cosCached = s.cosCached := rfl
@[simp] theorem present_outFreq : (present ws s).outFreq = s.outFreq := rfl
@[simp] theorem present_deltaFreq : (present ws s).deltaFreq = s.deltaFreq := rfl
@[simp] theorem present_phase : (present ws s).phase = s.phase := rfl
@[simp] theorem present_cmds : (present ws s).cmds = s.cmds ++ ws := rfl

@[simp] theorem presentNext_kp : (presentNext w s).kp = s.kp := rfl
@[simp] theorem presentNext_ki : (presentNext w s).ki = s.ki := rfl
@[simp] theorem presentNext_theta : (presentNext w s).theta = s.theta := rfl
@[simp] theorem presentNext_integrator : (presentNext w s).integrator = s.integrator := rfl
@[simp] theorem presentNext_sinCached : (presentNext w s).sinCached = s.sinCached := rfl
@[simp] theorem presentNext_cosCached : (presentNext w s).cosCached = s.cosCached := rfl
@[simp] theorem presentNext_outFreq : (presentNext w s).outFreq = s.outFreq := rfl
@[simp] theorem presentNext_deltaFreq : (presentNext w s).deltaFreq = s.deltaFreq := rfl
@[simp] theorem presentNext_phase : (presentNext w s).phase = s.phase := rfl
@[simp] theorem presentNext_cmds : (presentNext w s).cmds = w.toList ++ s.cmds.tail := rfl

end

section
variable (s : State)

@[simp] theorem x_kp : s.x 0 = s.kp := rfl
@[simp] theorem x_ki : s.x 1 = s.ki := rfl
@[simp] theorem x_theta : s.x 2 = presented s.theta := rfl
@[simp] theorem x_integrator : s.x 3 = s.integrator := rfl
@[simp] theorem x_sinCached : s.x 4 = s.sinCached := rfl
@[simp] theorem x_cosCached : s.x 5 = s.cosCached := rfl
@[simp] theorem x_outFreq : s.x 6 = s.outFreq := rfl
@[simp] theorem x_deltaFreq : s.x 7 = s.deltaFreq := rfl
@[simp] theorem ports_kp : s.ports.kp = s.kp := rfl
@[simp] theorem ports_ki : s.ports.ki = s.ki := rfl
@[simp] theorem ports_theta : s.ports.theta = presented s.theta := rfl
@[simp] theorem ports_integrator : s.ports.integrator = s.integrator := rfl
@[simp] theorem ports_sinCached : s.ports.sinCached = s.sinCached := rfl
@[simp] theorem ports_cosCached : s.ports.cosCached = s.cosCached := rfl
@[simp] theorem ports_outFreq : s.ports.outFreq = s.outFreq := rfl
@[simp] theorem ports_deltaFreq : s.ports.deltaFreq = s.deltaFreq := rfl

end

end Sys2Proof.Machine
end

