-- ==== Sys2Proof/Laws/Exec.lean ====
section
/-! SUPPORT. What each command and each tick can do, said once: the arms of `exec`, the cases of a `STEP`, the cases of a
tick, and the runs of decoded commands. -/

namespace Sys2Proof

open Sys2Proof.Machine

@[simp] theorem exec_nop (s : State) : exec .nop s = .next s := rfl

@[simp] theorem exec_rsvd (s : State) : exec .rsvd s = .next s := rfl

@[simp] theorem exec_init (kp0 ki0 : Word) (s : State) :
    exec (.init kp0 ki0) s = .next (initialise block.params kp0 ki0 s) := rfl

/-- A `STEP` after the first `INIT` is a sample tick (R163). -/
theorem exec_step_of_init (x : Sample) (s : State) (h : s.phase ≠ .uninit) :
    exec (.step x) s = .next (sampleTick block.params x s) := if_neg h

/-- A `STEP` before it is refused (R165). -/
theorem exec_step_of_uninit (x : Sample) (s : State) (h : s.phase = .uninit) :
    exec (.step x) s = .refused .stepBeforeInit := if_pos h

/-- Everything a command that answers can have done. -/
theorem exec_cases {i : Instr} {s t : State} (h : exec i s = .next t) :
    ((i = .nop ∨ i = .rsvd) ∧ t = s) ∨
    (∃ kp0 ki0, i = .init kp0 ki0 ∧ t = initialise block.params kp0 ki0 s) ∨
    (∃ x, i = .step x ∧ s.phase ≠ .uninit ∧ t = sampleTick block.params x s) := by
  cases i with
  | nop => exact .inl ⟨.inl rfl, (Host.Outcome.next.inj h).symm⟩
  | rsvd => exact .inl ⟨.inr rfl, (Host.Outcome.next.inj h).symm⟩
  | init kp0 ki0 => exact .inr (.inl ⟨kp0, ki0, rfl, (Host.Outcome.next.inj h).symm⟩)
  | step x =>
    by_cases hp : s.phase = .uninit
    · rw [exec_step_of_uninit x s hp] at h; cases h
    · rw [exec_step_of_init x s hp] at h
      exact .inr (.inr ⟨x, rfl, hp, (Host.Outcome.next.inj h).symm⟩)

/-- A command leaves the words still to come alone. -/
theorem exec_cmds {i : Instr} {s t : State} (h : exec i s = .next t) : t.cmds = s.cmds := by
  obtain ⟨-, rfl⟩ | ⟨kp0, ki0, -, rfl⟩ | ⟨x, -, -, rfl⟩ := exec_cases h <;> rfl

/-- Everything a tick that answers can have done. -/
theorem step_cases {s t : State} (h : step s = .next t) :
    (s.cmds = [] ∧ t = s) ∨ (∃ w rest, s.cmds = w :: rest ∧ exec (decode w) { s with cmds := rest } = .next t) := by
  unfold step fetch at h
  cases hc : s.cmds with
  | nil => rw [hc] at h; exact .inl ⟨rfl, (Host.Outcome.next.inj h).symm⟩
  | cons w rest => rw [hc] at h; exact .inr ⟨w, rest, rfl, h⟩

@[simp] theorem runInstrs_nil (s : State) : runInstrs [] s = .next s := rfl

/-- A run goes on from the state its first command leaves. -/
theorem runInstrs_cons_of_next {i : Instr} {is : List Instr} {s t : State} (h : exec i s = .next t) :
    runInstrs (i :: is) s = runInstrs is t := by
  simp [runInstrs, h]

/-- A run of ticks goes on from the state its first tick leaves. -/
theorem core_run_succ_of_next {s t : State} (n : Nat) (h : Sys2Proof.Machine.step s = .next t) :
    Host.Core.run Sys2Proof.core (n + 1) s = Host.Core.run Sys2Proof.core n t := by
  have hc : Sys2Proof.core.step s = .next t := h
  simp [Host.Core.run, hc]

/-- A run of ticks ends where a tick is refused. -/
theorem core_run_succ_of_refused {s : State} {r : Refusal} (n : Nat) (h : Sys2Proof.Machine.step s = .refused r) :
    Host.Core.run Sys2Proof.core (n + 1) s = .refused r := by
  have hc : Sys2Proof.core.step s = .refused r := h
  simp [Host.Core.run, hc]

end Sys2Proof
end

