-- ==== Sys2Proof/Laws/PerInstr.lean ====
section
/-! SUPPORT. Statements made per instruction about the commands as text: the opcode an encoding carries (R74, R80) and the
opcode-table row that covers it. -/

namespace Sys2Proof.Laws.EncodingRow

open Sys2Proof.Machine

/-- The encoding of the command carries the command's opcode, and the only row that covers it is the row of its
mnemonic. -/
def Statement (i : Instr) : Prop :=
  opField (encode i) = i.opcode ∧
    (opcodeRows.filter fun r => r.covers (encode i)).map Row.mnemonic = [i.mnemonic]

theorem nop : Statement .nop := by unfold Statement; decide

theorem init (kp0 ki0 : Word) : Statement (.init kp0 ki0) := by
  have h : opField (encode (.init kp0 ki0)) = 1#2 := opField_wordOfFields _ _ _
  refine ⟨h, ?_⟩
  simp only [opcodeRows, Row.covers, List.filter, and_opMask, h]
  show _ = ["INIT"]
  decide

theorem step (x : Sample) : Statement (.step x) := by
  have h : opField (encode (.step x)) = 2#2 := opField_wordOfFields _ _ _
  refine ⟨h, ?_⟩
  simp only [opcodeRows, Row.covers, List.filter, and_opMask, h]
  show _ = ["STEP"]
  decide

theorem rsvd : Statement .rsvd := by unfold Statement; decide

end Sys2Proof.Laws.EncodingRow
end

