-- ==== Sys2Proof/Laws/Units.lean ====
section
/-! SUPPORT. One lemma per function unit that says once what it computes, in integers; proofs cite these and do not unfold
the units. -/

namespace Sys2Proof.Machine

/-- `SAT32` on integers (R91). -/
theorem sat32_toInt (v : Int) : (sat32 v).toInt = max (-2147483648) (min 2147483647 v) := by
  unfold sat32 int32Min int32Max
  split
  · rw [BitVec.toInt_ofInt]; simp [Int.bmod]; omega
  · split
    · rw [BitVec.toInt_ofInt]; simp [Int.bmod]; omega
    · rw [BitVec.toInt_ofInt, Int.bmod_eq_of_le (by omega) (by omega)]; omega

/-- A word is a value of `s32` (R11). -/
theorem word_range (a : Word) : -2147483648 ≤ a.toInt ∧ a.toInt ≤ 2147483647 := by
  have h1 := BitVec.le_toInt a
  have h2 := BitVec.toInt_lt (x := a)
  omega

/-- A sample is a value of `s24` (R76). -/
theorem sample_range (x : Sample) : -8388608 ≤ x.toInt ∧ x.toInt ≤ 8388607 := by
  have h1 := BitVec.le_toInt x
  have h2 := BitVec.toInt_lt (x := x)
  omega

/-- An integer of `s32` survives its 32-bit pattern (R13). -/
theorem ofInt_toInt_of_range (v : Int) (lo : -2147483648 ≤ v) (hi : v ≤ 2147483647) :
    (BitVec.ofInt 32 v).toInt = v := by
  rw [BitVec.toInt_ofInt, Int.bmod_eq_of_le (by omega) (by omega)]

/-- `asr` between its neighbours (R93). -/
theorem asr_bounds (v : Int) (n : Nat) : asr v n * 2 ^ n ≤ v ∧ v < (asr v n + 1) * 2 ^ n :=
  ⟨Int.ediv_mul_le _ (by positivity), Int.lt_ediv_add_one_mul_self _ (by positivity)⟩

/-- The phase as an integer after an advance (R150). -/
theorem phadv_toNat (theta : Theta) (inc : Int) :
    ((phadv theta inc).toNat : Int) = ((theta.toNat : Int) + inc) % 1073741824 := by
  unfold phadv
  rw [BitVec.toNat_ofInt]
  omega

/-- The presented phase has the value of the register (R23). -/
theorem presented_toNat (theta : Theta) : (presented theta).toNat = theta.toNat := by
  have h := theta.isLt
  unfold presented
  rw [BitVec.toNat_setWidth]
  omega

/-- The sine index of a presented phase (R110). -/
theorem sidx_presented_toNat (theta : Theta) : (sidx (presented theta)).toNat = theta.toNat / 1048576 := by
  have h := theta.isLt
  unfold sidx
  rw [BitVec.extractLsb'_toNat, presented_toNat, Nat.shiftRight_eq_div_pow]
  omega

end Sys2Proof.Machine
end

