-- ==== Sys2Proof/Machine/RefTable.lean ====
section
/-! DEFINITION. The reference sine table `T_ref` (95_test_vectors.md section 2, D10), which the spec uses for its vectors
only: the real hardware's table is not known (N5). The block of this model does not use it; it is here so that a run
under the reference configuration can be evaluated. -/

namespace Sys2Proof.Machine

/-- `T_ref[0..63]`. -/
def refQuarter0 : List Nat :=
  [0x00000000, 0x006487C4, 0x00C90E90, 0x012D936C, 0x0192155F, 0x01F69373, 0x025B0CAF, 0x02BF801A,
   0x0323ECBE, 0x038851A2, 0x03ECADCF, 0x0451004D, 0x04B54825, 0x0519845E, 0x057DB403, 0x05E1D61B,
   0x0645E9AF, 0x06A9EDC9, 0x070DE172, 0x0771C3B3, 0x07D59396, 0x08395024, 0x089CF867, 0x09008B6A,
   0x09640837, 0x09C76DD8, 0x0A2ABB59, 0x0A8DEFC3, 0x0AF10A22, 0x0B540982, 0x0BB6ECEF, 0x0C19B374,
   0x0C7C5C1E, 0x0CDEE5F9, 0x0D415013, 0x0DA39978, 0x0E05C135, 0x0E67C65A, 0x0EC9A7F3, 0x0F2B650F,
   0x0F8CFCBE, 0x0FEE6E0D, 0x104FB80E, 0x10B0D9D0, 0x1111D263, 0x1172A0D7, 0x11D3443F, 0x1233BBAC,
   0x1294062F, 0x12F422DB, 0x135410C3, 0x13B3CEFA, 0x14135C94, 0x1472B8A5, 0x14D1E242, 0x1530D881,
   0x158F9A76, 0x15EE2738, 0x164C7DDD, 0x16AA9D7E, 0x17088531, 0x1766340F, 0x17C3A931, 0x1820E3B0]

/-- `T_ref[64..127]`. -/
def refQuarter1 : List Nat :=
  [0x187DE2A7, 0x18DAA52F, 0x19372A64, 0x19937161, 0x19EF7944, 0x1A4B4128, 0x1AA6C82B, 0x1B020D6C,
   0x1B5D100A, 0x1BB7CF23, 0x1C1249D8, 0x1C6C7F4A, 0x1CC66E99, 0x1D2016E9, 0x1D79775C, 0x1DD28F15,
   0x1E2B5D38, 0x1E83E0EB, 0x1EDC1953, 0x1F340596, 0x1F8BA4DC, 0x1FE2F64C, 0x2039F90F, 0x2090AC4D,
   0x20E70F32, 0x213D20E8, 0x2192E09B, 0x21E84D76, 0x223D66A8, 0x22922B5E, 0x22E69AC8, 0x233AB414,
   0x238E7673, 0x23E1E117, 0x2434F332, 0x2487ABF7, 0x24DA0A9A, 0x252C0E4F, 0x257DB64C, 0x25CF01C8,
   0x261FEFFA, 0x2670801A, 0x26C0B162, 0x2710830C, 0x275FF452, 0x27AF0472, 0x27FDB2A7, 0x284BFE2F,
   0x2899E64A, 0x28E76A37, 0x29348937, 0x2981428C, 0x29CD9578, 0x2A19813F, 0x2A650525, 0x2AB02071,
   0x2AFAD269, 0x2B451A55, 0x2B8EF77D, 0x2BD8692B, 0x2C216EAA, 0x2C6A0746, 0x2CB2324C, 0x2CF9EF09]

/-- `T_ref[128..191]`. -/
def refQuarter2 : List Nat :=
  [0x2D413CCD, 0x2D881AE8, 0x2DCE88AA, 0x2E148566, 0x2E5A1070, 0x2E9F291B, 0x2EE3CEBE, 0x2F2800AF,
   0x2F6BBE45, 0x2FAF06DA, 0x2FF1D9C7, 0x30343667, 0x30761C18, 0x30B78A36, 0x30F8801F, 0x3138FD35,
   0x317900D6, 0x31B88A66, 0x31F79948, 0x32362CE0, 0x32744493, 0x32B1DFC9, 0x32EEFDEA, 0x332B9E5E,
   0x3367C090, 0x33A363EC, 0x33DE87DE, 0x34192BD5, 0x34534F41, 0x348CF190, 0x34C61236, 0x34FEB0A5,
   0x3536CC52, 0x356E64B2, 0x35A5793C, 0x35DC0968, 0x361214B0, 0x36479A8E, 0x367C9A7E, 0x36B113FD,
   0x36E5068A, 0x371871A5, 0x374B54CE, 0x377DAF89, 0x37AF8159, 0x37E0C9C3, 0x3811884D, 0x3841BC7F,
   0x387165E3, 0x38A08402, 0x38CF1669, 0x38FD1CA4, 0x392A9642, 0x395782D3, 0x3983E1E8, 0x39AFB313,
   0x39DAF5E8, 0x3A05A9FD, 0x3A2FCEE8, 0x3A596442, 0x3A8269A3, 0x3AAADEA6, 0x3AD2C2E8, 0x3AFA1605]

/-- `T_ref[192..255]`. -/
def refQuarter3 : List Nat :=
  [0x3B20D79E, 0x3B470753, 0x3B6CA4C4, 0x3B91AF97, 0x3BB6276E, 0x3BDA0BF0, 0x3BFD5CC4, 0x3C201994,
   0x3C42420A, 0x3C63D5D1, 0x3C84D496, 0x3CA53E09, 0x3CC511D9, 0x3CE44FB7, 0x3D02F757, 0x3D21086C,
   0x3D3E82AE, 0x3D5B65D2, 0x3D77B192, 0x3D9365A8, 0x3DAE81CF, 0x3DC905C5, 0x3DE2F148, 0x3DFC4418,
   0x3E14FDF7, 0x3E2D1EA8, 0x3E44A5EF, 0x3E5B9392, 0x3E71E759, 0x3E87A10C, 0x3E9CC076, 0x3EB14563,
   0x3EC52FA0, 0x3ED87EFC, 0x3EEB3347, 0x3EFD4C54, 0x3F0EC9F5, 0x3F1FABFF, 0x3F2FF24A, 0x3F3F9CAB,
   0x3F4EAAFE, 0x3F5D1D1D, 0x3F6AF2E3, 0x3F782C30, 0x3F84C8E2, 0x3F90C8DA, 0x3F9C2BFB, 0x3FA6F228,
   0x3FB11B48, 0x3FBAA740, 0x3FC395F9, 0x3FCBE75E, 0x3FD39B5A, 0x3FDAB1D9, 0x3FE12ACB, 0x3FE7061F,
   0x3FEC43C7, 0x3FF0E3B6, 0x3FF4E5E0, 0x3FF84A3C, 0x3FFB10C1, 0x3FFD3969, 0x3FFEC42D, 0x3FFFB10B]

/-- `T_ref[256..256]`. -/
def refQuarter4 : List Nat :=
  [0x40000000]

/-- The quarter table, indices 0 to 256. -/
def refQuarter : List Nat :=
  refQuarter0 ++ refQuarter1 ++ refQuarter2 ++ refQuarter3 ++ refQuarter4

/-- `T_ref[i]` as an integer for `i` in `0..1023`, by the two symmetries of section 2. -/
def refEntry (i : Nat) : Int :=
  if i ≤ 256 then (refQuarter.getD i 0 : Nat)
  else if i ≤ 512 then (refQuarter.getD (512 - i) 0 : Nat)
  else if i ≤ 768 then -(refQuarter.getD (i - 512) 0 : Nat)
  else -(refQuarter.getD (1024 - i) 0 : Nat)

/-- `T_ref` as a table for a configuration. -/
def refTable (i : Index) : Word := BitVec.ofInt 32 (refEntry i.toNat)

end Sys2Proof.Machine
end

