-- ==== Sys2Proof/Tests/Slice0.lean ====
section
/-! SUPPORT. Small tests of single operations and single steps, with expected results from spec/ (95_test_vectors.md unless
a comment names another file), the smoke tests of well-formedness, and the witnesses that the statements' hypotheses can
be met. -/

namespace Sys2Proof.Tests

open Sys2Proof.Machine

set_option maxRecDepth 8000

/-! ### Well-formedness: one ill-formed term for each check (00_scope.md R10) -/

/-- The reference configuration with the reference table. -/
def refParams : Config.Params := referenceParams refTable

/-- The block of the spec's vectors. -/
def refBlock : Config.Block := { params := refParams, wf := by decide, agrees := referenceParams_agrees _ }

theorem test_reference_config_wf : refParams.wf = true := by decide
theorem test_f0_too_wide_refused :
    ({ refParams with f0 := 2147483648 } : Config.Params).f0Fits = false ∧
      ({ refParams with f0 := 2147483648 } : Config.Params).wf = false := by decide
theorem test_f0_too_low_refused :
    ({ refParams with f0 := -2147483648 + 67108863 } : Config.Params).f0RoomBelow = false ∧
      ({ refParams with f0 := -2147483648 + 67108863 } : Config.Params).wf = false := by decide
theorem test_f0_too_high_refused :
    ({ refParams with f0 := 2147483647 - 67108862 } : Config.Params).f0RoomAbove = false ∧
      ({ refParams with f0 := 2147483647 - 67108862 } : Config.Params).wf = false := by decide
theorem test_fs_zero_refused :
    ({ refParams with fs := 0 } : Config.Params).fsPositive = false ∧
      ({ refParams with fs := 0 } : Config.Params).wf = false := by decide
theorem test_recip_precision_refused :
    ({ refParams with phincMode := .recip 4 } : Config.Params).wf = false ∧
      ({ refParams with phincMode := .recip 48 } : Config.Params).wf = false ∧
      ({ refParams with fs := 1, phincMode := .recip 32 } : Config.Params).wf = false := by decide
/-- A word with an ignored bit set is not canonical (30_encoding.md R77). -/
theorem test_noncanonical_words :
    canonical 0x0DEADBEEF12345678#66 = false ∧ canonical 0x20000000001800000#66 = false ∧
      canonical 0x20000000100800000#66 = false ∧ canonical 0x30000000000000001#66 = false := by decide
/-- A sample outside the port's range is refused, never truncated (70_reset_and_hazards.md R208); the range's ends pass. -/
theorem test_sample_range :
    sampleOfInt 8388608 = none ∧ sampleOfInt (-8388609) = none ∧
      sampleOfInt 8388607 = some 0x7FFFFF#24 ∧ sampleOfInt (-8388608) = some 0x800000#24 := by decide

/-! ### Decoding and encoding (section 3.10; 30_encoding.md R73 to R77), each word's bits written out -/

/-- op 00, all other bits ignored. -/
theorem test_decode_nop : decode 0x0FFFFFFFFFFFFFFFF#66 = .nop := by decide
/-- op 01, kp0 = 0x80000000 in bits 63:32, ki0 = 1 in bits 31:0. -/
theorem test_decode_init : decode 0x18000000000000001#66 = .init 0x80000000#32 0x00000001#32 := by decide
/-- op 10, the sample in bits 23:0, bits 63:24 ignored. -/
theorem test_decode_step : decode 0x2DEADBEEFFF400000#66 = .step 0x400000#24 := by decide
/-- op 11. -/
theorem test_decode_rsvd : decode 0x30000000000000000#66 = .rsvd := by decide
theorem test_encode_words :
    encode (.init 0x20000000#32 0x00147AE1#32) = 0x12000000000147AE1#66 ∧
      encode (.step 0xFFFFFF#24) = 0x20000000000FFFFFF#66 ∧ encode .nop = 0#66 ∧
      encode .rsvd = 0x30000000000000000#66 := by decide
/-- The four table rows, 66 bits in 9 bytes; a set bit above bit 65 fits no port. -/
theorem test_table_words :
    decodeTableWord 72 0 = some .nop ∧ decodeTableWord 72 0x10000000000000000 = some (.init 0#32 0#32) ∧
      decodeTableWord 72 0x20000000000000000 = some (.step 0#24) ∧ decodeTableWord 72 0x30000000000000000 = some .rsvd ∧
      decodeBits 72 0x40000000000000000 = .error .beyondThePort := by decide

/-! ### Assembler text (30_encoding.md R79 to R82; section 3.10) -/

theorem test_assemble_line :
    assemble "INIT 0x20000000, 0x00147AE1 ; gains\n".toList = some [0x12000000000147AE1#66] := by decide
theorem test_assemble_rept :
    assemble "INIT -1, -2147483648\n.rept 2\nSTEP -1\n.endr".toList =
      some [0x1FFFFFFFF80000000#66, 0x20000000000FFFFFF#66, 0x20000000000FFFFFF#66] := by decide
theorem test_assemble_out_of_range : assemble "STEP 8388608".toList = none := by decide
theorem test_disassemble_step : disassemble 0x2DEADBEEFFF400000#66 = "STEP 0x400000".toList := by decide
theorem test_listing_init : listing 0x12000000000147AE1#66 = "1_20000000_00147AE1".toList := by decide

/-! ### Units (sections 3.1 to 3.9) -/

theorem test_sat32_bounds :
    sat32 2147483648 = 0x7FFFFFFF#32 ∧ sat32 (-2147483649) = 0x80000000#32 ∧ sat32 (-2147483648) = 0x80000000#32 ∧
      sat32 2147483647 = 0x7FFFFFFF#32 ∧ sat32 (-1) = 0xFFFFFFFF#32 := by decide
theorem test_satAdd : satAdd 0x7FFFFFFF#32 0x80000000#32 = 0xFFFFFFFF#32 ∧ satAdd 0x40000000#32 0x40000000#32 = 0x7FFFFFFF#32 ∧
    satAdd 0xC0000000#32 0xBFFFFFFF#32 = 0x80000000#32 := by decide
theorem test_asr_floor : asr (-33) 5 = -2 ∧ asr (-1) 30 = -1 ∧ asr (-1073741825) 30 = -2 ∧ asr 31 5 = 0 := by decide
theorem test_qmul30 : qmul30 0xFFFFFFFD#32 0x20000000#32 = 0xFFFFFFFE#32 ∧ qmul30 0x80000000#32 0x80000000#32 = 0x7FFFFFFF#32 ∧
    qmul30 0x5A827999#32 0x5A827999#32 = 0x7FFFFFFD#32 ∧ qmul30 0x80000000#32 0x7FFFFFFF#32 = 0x80000000#32 := by decide
theorem test_negs : negs 0x80000000#32 = 0x7FFFFFFF#32 ∧ negs 0x7FFFFFFF#32 = 0x80000001#32 := by decide
theorem test_indices : sidx 0x2FFFFFFF#32 = 767#10 ∧ cidx 0x2FFFFFFF#32 = 1023#10 ∧ cidx 0x30000000#32 = 0#10 ∧
    sidx 0xC0100000#32 = 1#10 ∧ sidx 0x000FFFFF#32 = 0#10 := by decide
theorem test_rescale : rescale 0x800000#24 = 0x80000000#32 ∧ rescale 0x7FFFFF#24 = 0x7FFFFF00#32 ∧
    rescale 0xFFFFFF#24 = 0xFFFFFF00#32 := by decide
theorem test_pd : pd 0x80000000#32 0x40000000#32 = 0x7FFFFFFF#32 ∧ pd 0x80000000#32 0xC0000000#32 = 0x80000001#32 ∧
    pd 0xFFFFFF00#32 0x006487C4#32 = 2#32 := by decide
theorem test_u2df : u2df 0xFFFFFFDF#32 = 0xFFFFFFFE#32 ∧ u2df 0x80000000#32 = 0xFC000000#32 := by decide
theorem test_phincDiv : phincDiv 40000 1249 = 0 ∧ phincDiv 40000 1250 = 1 ∧ phincDiv 40000 (-1251) = -2 ∧
    phincDiv 40000 0x64000000 = 1342177 := by decide
theorem test_phincRecip : phincRecip 32 40000 0x64000000 = 1342175 ∧ phincRecip 34 40000 0x64000000 = 1342178 ∧
    recipR 36 40000 = 1717987 ∧ recipShift 32 = 27 := by decide
theorem test_phadv : phadv 0x3FFFFF20#30 1342177 = 0x00147A01#30 ∧ phadv 5#30 (-7) = 0x3FFFFFFE#30 := by decide
/-- Section 2: the checksum of the quarter table and two spot values. -/
theorem test_refTable : refQuarter.sum = 175529032425 ∧ refTable 513#10 = 0xFF9B783C#32 ∧ refTable 768#10 = 0xC0000000#32 := by
  decide
/-- Row V4 of section 3.7. -/
theorem test_pdpi_leaves_rail :
    (pdpi refParams 0x7FFFFFFF#32 0x7FFFFFFF#32 0x7FFFFFFF#32 0x7FFFFF#24 0x006487C4#32).integrator = 0x7E6DE0F3#32 ∧
      (pdpi refParams 0x7FFFFFFF#32 0x7FFFFFFF#32 0x7FFFFFFF#32 0x7FFFFF#24 0x006487C4#32).outFreq = 0x67E6DE0F#32 := by
  decide

/-! ### Commands, one step each -/

/-- A running state with the given phase and integrator, gains 0.5 and 0x00147AE1, and nothing on the port. -/
def running (theta : Theta) (integrator : Word) : State :=
  { kp := 0x20000000#32, ki := 0x00147AE1#32, theta := theta, integrator := integrator, sinCached := 0#32,
    cosCached := 0#32, outFreq := 0x64000000#32, deltaFreq := 0#32, phase := .running, cmds := [] }

/-- Program P2 step 2. -/
theorem test_tick_p2 :
    (sampleTick refParams 0x3FFF7F#24 (running 0x00147AE1#30 0#32)).ports =
      { kp := 0x20000000#32, ki := 0x00147AE1#32, theta := 0x0028F56F#32, integrator := 0xFFFFDFD4#32,
        sinCached := 0x006487C4#32, cosCached := 0x3FFFB10B#32, outFreq := 0x63FE6CE2#32, deltaFreq := 0xFFFE6CE2#32 } := by
  decide
/-- Program P4 step 801: the wrap through zero, the cosine read at a wrapped index. -/
theorem test_tick_wraps :
    (sampleTick refParams 0#24 (running 0x3FFFFF20#30 0#32)).theta = 0x00147A01#30 ∧
      (sampleTick refParams 0#24 (running 0x3FFFFF20#30 0#32)).cosCached = 0x3FFFB10B#32 := by decide
/-- Program P6 command 4 (the `INIT` after two steps). -/
theorem test_initialise :
    (initialise refParams 0x40000000#32 0#32 (running 0x0028F56F#30 0xFFFFDFD4#32)).ports =
      { kp := 0x40000000#32, ki := 0#32, theta := 0#32, integrator := 0#32, sinCached := 0#32, cosCached := 0x40000000#32,
        outFreq := 0x64000000#32, deltaFreq := 0#32 } := by decide
/-- Program P6 commands 6 and 8: unchanged. -/
theorem test_nop_rsvd : exec .nop (running 7#30 1#32) = .next (running 7#30 1#32) ∧
    exec .rsvd (running 7#30 1#32) = .next (running 7#30 1#32) := ⟨rfl, rfl⟩
/-- Section 3.11: `STEP` from power-on is refused. -/
theorem test_step_at_power_on : step (State.reset.withFetchWord 72 0x20000000000000000) = .refused .stepBeforeInit := rfl
/-- Section 3.11: `NOP`, `RSVD`, `INIT` run from power-on; the first two keep `UNINIT`. -/
theorem test_first_commands :
    step (State.reset.withFetchWord 72 0) = .next State.reset ∧
      step (State.reset.withFetchWord 72 0x30000000000000000) = .next State.reset ∧
      (∃ t, step (State.reset.withFetchWord 72 0x10000000000000000) = .next t ∧ t.phase = .initialized) :=
  ⟨rfl, rfl, _, rfl, rfl⟩
/-- A `STEP` after an `INIT` runs from the port, and the word after it stays for the next tick. -/
theorem test_step_runs_from_port :
    ∃ t, step { running 7#30 1#32 with cmds := [0x20000000000400000#66, 5#66] } = .next t ∧ t.cmds = [5#66] :=
  ⟨_, exec_step_of_init 0x400000#24 { running 7#30 1#32 with cmds := [5#66] } (by decide), rfl⟩

/-! ### Witnesses: the hypotheses of each statement can be met -/

theorem witness_ignored_bits :
    (opField 0x00000000000000000#66 = 0b00#2 ∧ opField 0x0DEADBEEF12345678#66 = opField 0x00000000000000000#66) ∧
      (opField 0x30000000000000000#66 = 0b11#2 ∧ opField 0x3FFFFFFFFFFFFFFFF#66 = opField 0x30000000000000000#66) ∧
      (opField 0x20000000000400000#66 = 0b10#2 ∧ opField 0x2DEADBEEFFF400000#66 = opField 0x20000000000400000#66 ∧
        (0x20000000000400000#66).extractLsb' 0 24 = (0x2DEADBEEFFF400000#66).extractLsb' 0 24) ∧
      Instr.nop.opcode = 0b00#2 ∧ Instr.rsvd.opcode = 0b11#2 := by decide
theorem witness_operands :
    decode 0x1800000007FFFFFFF#66 = .init 0x80000000#32 0x7FFFFFFF#32 ∧ decode 0x20000000000800000#66 = .step 0x800000#24 ∧
      decode 0x200000000007FFFFF#66 = .step 0x7FFFFF#24 := by decide
theorem witness_rept : expand [.rept 2, .cmd .nop, .endr] = some [.nop, .nop] ∧ expand [.cmd .rsvd] = some [.rsvd] := by
  decide
theorem witness_wide_sample : (-8388608 : Int) ≤ -8388608 ∧ (8388607 : Int) ≤ 8388607 ∧ (-8388609 : Int) < -8388608 ∧
    (8388607 : Int) < 8388608 := by decide
theorem witness_saturation : (-2147483649 : Int) < -2147483648 ∧ (2147483647 : Int) < 2147483648 ∧
    (-2147483648 : Int) ≤ 2147483647 := by decide
/-- 3 × 0.5 lies between 1 and 2; 2.0 × 2.0 and -2.0 × 2.0 lie beyond the bounds. -/
theorem witness_fixed_multiply :
    (1 * 1073741824 ≤ (3#32 : Word).toInt * (0x20000000#32 : Word).toInt ∧
      (3#32 : Word).toInt * (0x20000000#32 : Word).toInt < (1 + 1) * 1073741824) ∧
    (4294967296 * 1073741824 ≤ (0x80000000#32 : Word).toInt * (0x80000000#32 : Word).toInt ∧
      (0x80000000#32 : Word).toInt * (0x80000000#32 : Word).toInt < (4294967296 + 1) * 1073741824) := by decide
theorem witness_negation : (1#32 : Word) ≠ 0x80000000#32 := by decide
/-- First a product that drops bits, then one that drops none. -/
theorem witness_negated_operand :
    (asr ((3#32 : Word).toInt * (0x20000000#32 : Word).toInt) 30 = 1 ∧
      asr (-((3#32 : Word).toInt * (0x20000000#32 : Word).toInt)) 30 = -2 ∧
      (3#32 : Word).toInt * (0x20000000#32 : Word).toInt % 1073741824 ≠ 0) ∧
    (asr ((0x40000000#32 : Word).toInt * (5#32 : Word).toInt) 30 = 5 ∧
      asr (-((0x40000000#32 : Word).toInt * (5#32 : Word).toInt)) 30 = -5 ∧
      (0x40000000#32 : Word).toInt * (5#32 : Word).toInt % 1073741824 = 0) := by decide
theorem witness_intermediates :
    (refParams.wf = true ∧ refParams.phincMode = .div) ∧
      ({ refParams with phincMode := .recip 47 } : Config.Params).wf = true ∧
      ({ refParams with phincMode := .recip 47 } : Config.Params).phincMode = .recip 47 := by decide
theorem witness_table_reads :
    exec .nop (running 7#30 1#32) = .next (running 7#30 1#32) ∧
      exec (.init 1#32 2#32) (running 7#30 1#32) = .next (initialise block.params 1#32 2#32 (running 7#30 1#32)) ∧
      exec (.step 3#24) (running 7#30 1#32) = .next (sampleTick block.params 3#24 (running 7#30 1#32)) :=
  ⟨rfl, rfl, exec_step_of_init _ _ (by decide)⟩
/-- The floor of the ideal sine is a table that meets the contract of R51. -/
theorem witness_sine_contract : ∃ t : Index → Word, SineContract t := by
  refine ⟨fun i => BitVec.ofInt 32 ⌊Real.sin (2 * Real.pi * (i.toNat : ℝ) / 1024) * 2 ^ 30⌋, fun i => ?_⟩
  have hlo := Real.neg_one_le_sin (2 * Real.pi * (i.toNat : ℝ) / 1024)
  have hhi := Real.sin_le_one (2 * Real.pi * (i.toNat : ℝ) / 1024)
  dsimp only
  generalize Real.sin (2 * Real.pi * (i.toNat : ℝ) / 1024) = v at hlo hhi ⊢
  have lo : -1073741824 ≤ ⌊v * 2 ^ 30⌋ := Int.le_floor.2 (by push_cast; nlinarith)
  have hi : ⌊v * 2 ^ 30⌋ ≤ 1073741824 := by
    have h := Int.floor_le (v * 2 ^ 30)
    have : ((⌊v * 2 ^ 30⌋ : ℤ) : ℝ) ≤ 1073741824 := by nlinarith
    exact_mod_cast this
  rw [BitVec.toInt_ofInt, Int.bmod_eq_of_le (by omega) (by omega), abs_lt]
  have h1 := Int.floor_le (v * 2 ^ 30)
  have h2 := Int.lt_floor_add_one (v * 2 ^ 30)
  constructor <;> linarith
theorem witness_integrator_terms : (0 : Int) ≤ (0#32 : Word).toInt ∧ (0xFFFFFFFB#32 : Word).toInt < 0 ∧
    (0#32 : Word).toInt ≤ 0 ∧ 0 < (5#32 : Word).toInt := by decide
/-- The ends of the nominal frequencies that R10 admits. -/
theorem witness_configurations :
    refParams.wf = true ∧ ({ refParams with f0 := 2147483647 - 67108863 } : Config.Params).wf = true ∧
      ({ refParams with f0 := -2147483648 + 67108864 } : Config.Params).wf = true := by decide
theorem witness_sample_rate : 0 < 40000 ∧ 5 ≤ 5 := by decide
theorem witness_block_and_frequency : refBlock.params.fs = 40000 ∧ (0x60000000 : Int) ≤ 0x60000000 ∧
    (0x67FFFFFF : Int) ≤ 0x67FFFFFF := by decide
theorem witness_running : (running 7#30 1#32).phase ≠ .uninit := by decide
theorem witness_power_on : State.reset.phase = .uninit ∧ (∀ i ∈ [Instr.nop, Instr.rsvd], i.isActive = false) :=
  ⟨rfl, by decide⟩
theorem witness_run : (∃ t, runInstrs [.nop] State.reset = .next t) ∧
    (∃ t, runInstrs [.init 1#32 2#32] State.reset = .next t) ∧ [Instr.init 1#32 2#32].any Instr.isActive = true :=
  ⟨⟨_, rfl⟩, ⟨_, rfl⟩, rfl⟩
theorem witness_lifecycle :
    (Instr.rsvd = .nop ∨ Instr.rsvd = .rsvd) ∧ exec .rsvd State.reset = .next State.reset ∧
      exec (.init 1#32 2#32) State.reset = .next (initialise block.params 1#32 2#32 State.reset) ∧
      exec (.step 3#24) (running 7#30 1#32) = .next (sampleTick block.params 3#24 (running 7#30 1#32)) :=
  ⟨.inr rfl, rfl, rfl, exec_step_of_init _ _ (by decide)⟩
theorem witness_init_from_two_states : (running 7#30 1#32).cmds = State.reset.cmds ∧
    (∃ t u, exec (.init 1#32 2#32) State.reset = .next t ∧ exec (.init 1#32 2#32) t = .next u) :=
  ⟨rfl, _, _, rfl, rfl⟩
/-- A command that is no `INIT`, and a tick that changes a gain. -/
theorem witness_gain_frame :
    (exec (.step 3#24) (running 7#30 1#32) = .next (sampleTick block.params 3#24 (running 7#30 1#32)) ∧
      (Instr.step 3#24).isInit = false) ∧
    (∃ t, step { running 7#30 1#32 with cmds := [0x10000000500000006#66] } = .next t ∧
      t.kp ≠ (running 7#30 1#32).kp) :=
  ⟨⟨exec_step_of_init _ _ (by decide), rfl⟩, _, rfl, by decide⟩
theorem witness_first_step : refBlock.params.sineTable 0#10 = 0#32 := by decide
theorem witness_zero_gains :
    ({ running 7#30 0#32 with kp := 0#32, ki := 0#32 } : State).phase ≠ .uninit ∧
      ({ running 7#30 0#32 with kp := 0#32, ki := 0#32 } : State).kp = 0#32 ∧
      ({ running 7#30 0#32 with kp := 0#32, ki := 0#32 } : State).ki = 0#32 ∧
      ({ running 7#30 0#32 with kp := 0#32, ki := 0#32 } : State).integrator = 0#32 := by decide
theorem witness_phase_advance :
    refBlock.params.fs = 40000 ∧ 45 * 33554432 ≤ (sampleTick refBlock.params 1#24 (running 7#30 1#32)).outFreq.toInt ∧
      (sampleTick refBlock.params 1#24 (running 7#30 1#32)).outFreq.toInt ≤ 55 * 33554432 := by decide
theorem witness_port : ({ running 7#30 1#32 with cmds := [5#66, 6#66] } : State).cmds = 5#66 :: [6#66] ∧
    (running 7#30 1#32).cmds = [] := ⟨rfl, rfl⟩
/-- A state that meets the invariant with every premise of it true, and a tick from it. -/
theorem witness_invariant :
    RegistersConsistent block.params { initialise block.params 1#32 2#32 State.reset with cmds := [0#66] } ∧
      step { initialise block.params 1#32 2#32 State.reset with cmds := [0#66] } =
        .next (initialise block.params 1#32 2#32 State.reset) :=
  ⟨⟨fun _ => by decide, fun _ => rfl, fun _ => ⟨0#10, rfl, rfl⟩, fun _ => ⟨rfl, rfl, rfl, rfl, rfl⟩⟩, rfl⟩
theorem witness_gains_of_last_init :
    (∀ i ∈ [Instr.nop, Instr.rsvd], i.isInit = false) ∧
      (∃ t, runInstrs ([.rsvd] ++ .init 1#32 2#32 :: [.nop, .rsvd]) State.reset = .next t) :=
  ⟨by decide, _, rfl⟩
theorem witness_trajectory : State.reset.cmds = (running 7#30 1#32).cmds ∧
    [Instr.nop, .step 1#24].filter Instr.isActive = [Instr.step 1#24, .rsvd].filter Instr.isActive := ⟨rfl, by decide⟩
theorem witness_obedient_host :
    hostObeys (decide (State.reset.phase ≠ .uninit)) [.nop, .init 1#32 2#32, .step 3#24] = true ∧
      hostObeys (decide ((running 7#30 1#32).phase ≠ .uninit)) [.step 3#24] = true := ⟨rfl, rfl⟩
theorem witness_no_command : State.reset.cmds = [] := rfl
theorem witness_zero_input : (running 0x3FFFFF20#30 0#32).phase ≠ .uninit ∧
    (running 0x3FFFFF20#30 0#32).integrator = 0#32 := by decide

end Sys2Proof.Tests
end

namespace Sys2Proof.Proofs

open Sys2Proof.Machine

/-! ### The ports (R15, R40, R70) -/

/-- Every port carries its register; only `theta` changes width on the way out (R23). -/
theorem ports_eq (s : State) :
    s.ports =
      { kp := s.kp, ki := s.ki, theta := presented s.theta, integrator := s.integrator,
        sinCached := s.sinCached, cosCached := s.cosCached, outFreq := s.outFreq, deltaFreq := s.deltaFreq } := by
  simp only [State.ports, x_kp, x_ki, x_theta, x_integrator, x_sinCached, x_cosCached, x_outFreq, x_deltaFreq]

/-- The registers the host reads by index are the ports in order. -/
theorem x_list_eq_ports (s : State) :
    [s.x 0, s.x 1, s.x 2, s.x 3, s.x 4, s.x 5, s.x 6, s.x 7] =
      [s.ports.kp, s.ports.ki, s.ports.theta, s.ports.integrator, s.ports.sinCached, s.ports.cosCached,
        s.ports.outFreq, s.ports.deltaFreq] := by
  simp [ports_eq]

/-- Settles O47: the ports carry the registers (`presented` is the zero-extension), and `x` reads them in order. -/
theorem portsShowTheRegisters : Obligations.PortsShowTheRegisters :=
  fun s => ⟨ports_eq s, x_list_eq_ports s⟩

end Sys2Proof.Proofs

namespace Sys2Proof.Proofs

open Sys2Proof.Machine

/-! ### Units in integers (R92, R123, R125, R126) -/

/-- `SATADD` in integers (R92): the exact sum, clamped once. -/
theorem satAdd_toInt (a b : Word) :
    (satAdd a b).toInt = max (-2147483648) (min 2147483647 (a.toInt + b.toInt)) :=
  sat32_toInt _

/-- The integrator update in integers (R123). -/
theorem integrate_toInt (i e : Word) :
    (integrate i e).toInt = max (-2147483648) (min 2147483647 (i.toInt + e.toInt)) :=
  satAdd_toInt i e

/-- The clamp of `U2DF` is inert (R125, C9): what is left is the floor. -/
theorem u2df_toInt (u : Word) : (u2df u).toInt = u.toInt / 32 := by
  have range := word_range u
  have floor : asr u.toInt 5 = u.toInt / 32 := rfl
  rw [u2df, sat32_toInt, floor]
  omega

/-- The correction is at most 2 Hz either way (R27, R125). -/
theorem u2df_range (u : Word) : -67108864 ≤ (u2df u).toInt ∧ (u2df u).toInt ≤ 67108863 := by
  have range := word_range u
  rw [u2df_toInt]
  omega

/-- The room that rule R10 leaves around the nominal frequency. -/
theorem f0_range_of_wf {c : Config.Params} (wf : c.wf = true) :
    -2080374784 ≤ c.f0 ∧ c.f0 ≤ 2080374784 := by
  simp only [Config.Params.wf, Bool.and_eq_true] at wf
  obtain ⟨⟨⟨⟨-, roomBelow⟩, roomAbove⟩, -⟩, -⟩ := wf
  have below : int32Min ≤ c.f0 - 67108864 := of_decide_eq_true roomBelow
  have above : c.f0 + 67108864 - 1 ≤ int32Max := of_decide_eq_true roomAbove
  rw [int32Min] at below
  rw [int32Max] at above
  omega

/-- The nominal frequency survives its 32-bit pattern (R10). -/
theorem nominal_toInt {c : Config.Params} (wf : c.wf = true) : (BitVec.ofInt 32 c.f0).toInt = c.f0 := by
  obtain ⟨lo, hi⟩ := f0_range_of_wf wf
  exact ofInt_toInt_of_range _ (by omega) (by omega)

/-- The plain addition of `OUTF` is exact for every correction the controller can give (R10, R126). -/
theorem outf_u2df_toInt {c : Config.Params} (wf : c.wf = true) (u : Word) :
    (outf c (u2df u)).toInt = c.f0 + (u2df u).toInt := by
  obtain ⟨f0Lo, f0Hi⟩ := f0_range_of_wf wf
  obtain ⟨dfLo, dfHi⟩ := u2df_range u
  exact ofInt_toInt_of_range _ (by omega) (by omega)

/-- Settles O23: at either rail the clamp engages exactly when the term pushes outwards or is 0. -/
theorem integratorLeavesTheRailAtOnce : Obligations.IntegratorLeavesTheRailAtOnce := by
  have top : (0x7FFFFFFF#32 : Word).toInt = 2147483647 := by decide
  have bottom : (0x80000000#32 : Word).toInt = -2147483648 := by decide
  refine ⟨fun e he => ?_, fun e he => ?_, fun e he => ?_, fun e he => ?_⟩
  · apply BitVec.eq_of_toInt_eq
    rw [integrate_toInt, top]
    omega
  · have range := word_range e
    rw [integrate_toInt, top]
    omega
  · apply BitVec.eq_of_toInt_eq
    rw [integrate_toInt, bottom]
    omega
  · have range := word_range e
    rw [integrate_toInt, bottom]
    omega

/-! ### The register invariant (R39) -/

/-- The correction of a sample tick is the controller output through `U2DF` (R127). -/
theorem controlWires_deltaFreq (c : Config.Params) (x : Sample) (s : State) :
    (controlWires c x s).deltaFreq = u2df (controlWires c x s).u := by
  simp only [controlWires, pdpi]

/-- The frequency of a sample tick is `OUTF` of the same correction (R127). -/
theorem controlWires_outFreq (c : Config.Params) (x : Sample) (s : State) :
    (controlWires c x s).outFreq = outf c (u2df (controlWires c x s).u) := by
  simp only [controlWires, pdpi]

/-- Before the first `INIT` rule R39 asks for nothing. -/
theorem registersConsistent_of_uninit {c : Config.Params} {s : State} (uninit : s.phase = .uninit) :
    RegistersConsistent c s where
  deltaRange := fun h => absurd uninit h
  freqIsNominalPlusDelta := fun h => absurd uninit h
  quadrature := fun h => absurd uninit h
  initialized := fun h => by simp [uninit] at h

/-- The words still to come take no part in the invariant. -/
theorem registersConsistent_withCmds {c : Config.Params} {s : State} (h : RegistersConsistent c s)
    (ws : List Cmd) : RegistersConsistent c { s with cmds := ws } :=
  ⟨h.deltaRange, h.freqIsNominalPlusDelta, h.quadrature, h.initialized⟩

/-- Initialisation establishes the invariant from any state (R38). -/
theorem initialise_registersConsistent {c : Config.Params} (wf : c.wf = true) (kp0 ki0 : Word) (s : State) :
    RegistersConsistent c (initialise c kp0 ki0 s) where
  deltaRange := fun _ => by simp
  freqIsNominalPlusDelta := fun _ => by simp [nominal_toInt wf]
  quadrature := fun _ => ⟨0#10, rfl, rfl⟩
  initialized := fun _ => ⟨rfl, rfl, rfl, rfl, rfl⟩

/-- A sample tick establishes the invariant from any state: every register that R39 speaks of is written (R163). -/
theorem sampleTick_registersConsistent {c : Config.Params} (wf : c.wf = true) (x : Sample) (s : State) :
    RegistersConsistent c (sampleTick c x s) where
  deltaRange := fun _ => by
    rw [sampleTick_deltaFreq, controlWires_deltaFreq]
    exact u2df_range _
  freqIsNominalPlusDelta := fun _ => by
    rw [sampleTick_outFreq, sampleTick_deltaFreq, controlWires_outFreq, controlWires_deltaFreq]
    exact outf_u2df_toInt wf _
  quadrature := fun _ => ⟨sidx (presented s.theta), sampleTick_sinCached c x s, sampleTick_cosCached c x s⟩
  initialized := fun h => by simp at h

/-- Every command that answers keeps the invariant. -/
theorem exec_keeps_registersConsistent {i : Instr} {s t : State} (h : RegistersConsistent block.params s)
    (run : exec i s = .next t) : RegistersConsistent block.params t := by
  obtain ⟨-, rfl⟩ | ⟨kp0, ki0, -, rfl⟩ | ⟨x, -, -, rfl⟩ := exec_cases run
  · exact h
  · exact initialise_registersConsistent block.wf kp0 ki0 s
  · exact sampleTick_registersConsistent block.wf x s

/-- Settles O50: an idle tick holds the state, and any other runs one command, which keeps the invariant. -/
theorem invariantKeptByEveryTick : Obligations.InvariantKeptByEveryTick := by
  intro s t h tick
  obtain ⟨-, rfl⟩ | ⟨w, rest, -, run⟩ := step_cases tick
  · exact h
  · exact exec_keeps_registersConsistent (registersConsistent_withCmds h rest) run

/-- Settles O49: the power-on phase is `UNINIT`. -/
theorem invariantHoldsAtPowerOn : Obligations.InvariantHoldsAtPowerOn :=
  registersConsistent_of_uninit rfl

/-- Settles O41: the invariant's range and sum, with the reference nominal frequency. -/
theorem stepConfinesTheFrequency : Obligations.StepConfinesTheFrequency := by
  intro x s t run
  obtain ⟨hi | hi, -⟩ | ⟨kp0, ki0, hi, -⟩ | ⟨y, -, -, rfl⟩ := exec_cases run
  · cases hi
  · cases hi
  · cases hi
  · have consistent := sampleTick_registersConsistent block.wf y s
    have started : (sampleTick block.params y s).phase ≠ .uninit := by simp
    have nominal : block.params.f0 = 1677721600 := rfl
    obtain ⟨lo, hi⟩ := consistent.deltaRange started
    have sum := consistent.freqIsNominalPlusDelta started
    rw [nominal] at sum
    exact ⟨lo, hi, by omega, by omega, sum⟩

/-! ### The lifecycle, initialisation and power-on (R35, R37, R38) -/

/-- Settles O37: the phase after each of the three things a command that answers can have done. -/
theorem lifecycleTransitions : Obligations.LifecycleTransitions := by
  intro i s t run
  obtain ⟨rfl | rfl, rfl⟩ | ⟨kp0, ki0, rfl, rfl⟩ | ⟨x, rfl, started, rfl⟩ := exec_cases run
  · simp
  · simp
  · simp
  · have wasRunnable : s.phase = .initialized ∨ s.phase = .running := by
      cases hp : s.phase with
      | uninit => exact absurd hp started
      | initialized => exact .inl rfl
      | running => exact .inr rfl
    simp [wasRunnable]

/-- The nominal frequency of the deployed block as a register value (R9, R38). -/
theorem block_nominal : BitVec.ofInt 32 block.params.f0 = 0x64000000#32 := by decide

/-- Settles O33: `INIT` answers `initialise` of the deployed block. -/
theorem initSetsEveryRegister : Obligations.InitSetsEveryRegister := by
  intro kp0 ki0 s
  rw [exec_init, initialise, block_nominal]
  simp only [tableRead]

/-- Settles O46, field by field of `State.reset`. -/
theorem powerOnState : Obligations.PowerOnState :=
  ⟨rfl, rfl, rfl, rfl, rfl, rfl, rfl, rfl, rfl, rfl⟩

/-- Settles O48: zero-extension keeps the value of a 30-bit register, so the two bits above it are 0. -/
theorem presentedPhaseBelowOneTurn : Obligations.PresentedPhaseBelowOneTurn := by
  intro s
  have value : s.ports.theta.toNat = s.theta.toNat := by rw [ports_theta, presented_toNat]
  have below : s.ports.theta.toNat < 2 ^ 30 := value ▸ s.theta.isLt
  refine ⟨value, below, BitVec.eq_of_toNat_eq ?_⟩
  rw [BitVec.extractLsb'_toNat, Nat.shiftRight_eq_div_pow, Nat.div_eq_of_lt below]
  rfl

/-! ### The gains (R22, R29, R39 (e)) -/

/-- A command other than `INIT` keeps the gains (R29). -/
theorem exec_keeps_gains {i : Instr} {s t : State} (run : exec i s = .next t) (notInit : i.isInit = false) :
    t.kp = s.kp ∧ t.ki = s.ki := by
  obtain ⟨-, rfl⟩ | ⟨kp0, ki0, rfl, -⟩ | ⟨x, -, -, rfl⟩ := exec_cases run
  · exact ⟨rfl, rfl⟩
  · simp [Instr.isInit] at notInit
  · exact ⟨sampleTick_kp .., sampleTick_ki ..⟩

/-- Only opcode `01` decodes to an `INIT` (R74). -/
theorem opField_of_decode_isInit {w : Cmd} (isInit : (decode w).isInit = true) : opField w = 0b01#2 := by
  unfold decode at isInit
  split at isInit
  · simp [Instr.isInit] at isInit
  · split at isInit
    · assumption
    · split at isInit <;> simp [Instr.isInit] at isInit

/-- Settles O39: by `exec_keeps_gains` a tick that changes a gain ran an `INIT`, whose word has opcode `01`. -/
theorem onlyInitChangesTheGains : Obligations.OnlyInitChangesTheGains := by
  refine ⟨fun i s t run notInit => ?_, fun s t tick changed => ?_⟩
  · obtain ⟨hkp, hki⟩ := exec_keeps_gains run notInit
    exact ⟨hkp, hki, exec_cmds run⟩
  · obtain ⟨-, rfl⟩ | ⟨w, rest, hcmds, run⟩ := step_cases tick
    · simp at changed
    · refine ⟨w, rest, hcmds, opField_of_decode_isInit ?_⟩
      by_contra notInit
      obtain ⟨hkp, hki⟩ := exec_keeps_gains run (Bool.eq_false_iff.mpr notInit)
      exact changed.elim (absurd hkp) (absurd hki)

/-- A run that ends took its first command and ran the rest from what that left (R58). -/
theorem runInstrs_cons_next {i : Instr} {is : List Instr} {s t : State} (run : runInstrs (i :: is) s = .next t) :
    ∃ u, exec i s = .next u ∧ runInstrs is u = .next t := by
  cases first : exec i s with
  | next u => exact ⟨u, rfl, by rwa [runInstrs_cons_of_next first] at run⟩
  | fault r => exact nomatch r
  | refused r => simp [runInstrs, first] at run

/-- A run that ends can be cut anywhere. -/
theorem runInstrs_append_next {is js : List Instr} {s t : State} (run : runInstrs (is ++ js) s = .next t) :
    ∃ u, runInstrs is s = .next u ∧ runInstrs js u = .next t := by
  induction is generalizing s with
  | nil => exact ⟨s, rfl, run⟩
  | cons i is ih =>
    obtain ⟨v, first, others⟩ := runInstrs_cons_next run
    obtain ⟨u, front, back⟩ := ih others
    exact ⟨u, by rw [runInstrs_cons_of_next first, front], back⟩

/-- A run without an `INIT` keeps the gains. -/
theorem runInstrs_keeps_gains {is : List Instr} {s t : State} (noInit : ∀ i ∈ is, i.isInit = false)
    (run : runInstrs is s = .next t) : t.kp = s.kp ∧ t.ki = s.ki := by
  induction is generalizing s with
  | nil =>
    cases run
    exact ⟨rfl, rfl⟩
  | cons i is ih =>
    obtain ⟨hi, his⟩ := List.forall_mem_cons.mp noInit
    obtain ⟨u, first, others⟩ := runInstrs_cons_next run
    obtain ⟨hkp, hki⟩ := exec_keeps_gains first hi
    obtain ⟨hkp', hki'⟩ := ih his others
    exact ⟨hkp'.trans hkp, hki'.trans hki⟩

/-- Settles O51: cut the run at the `INIT`; it loads the gains and the rest of the run keeps them. -/
theorem gainsAreThoseOfTheLastInit : Obligations.GainsAreThoseOfTheLastInit := by
  intro before after kp0 ki0 s t noInit run
  obtain ⟨u, -, fromInit⟩ := runInstrs_append_next run
  rw [runInstrs_cons_of_next (exec_init kp0 ki0 u)] at fromInit
  exact runInstrs_keeps_gains noInit fromInit

/-! ### The output registers (R25 to R27, R29) -/

/-- The state with other values in the four registers that no command reads. -/
def withOutputs (s : State) (a b f d : Word) : State :=
  { s with sinCached := a, cosCached := b, outFreq := f, deltaFreq := d }

/-- An `INIT` or a `STEP` reads none of the four registers and writes all of them. -/
theorem exec_withOutputs_of_active {i : Instr} (active : i.isActive = true) (s : State) (a b f d : Word) :
    exec i (withOutputs s a b f d) = exec i s := by
  cases i with
  | nop => simp [Instr.isActive] at active
  | rsvd => simp [Instr.isActive] at active
  | init kp0 ki0 => rfl
  | step x =>
    by_cases uninit : s.phase = .uninit
    · rw [exec_step_of_uninit x s uninit, exec_step_of_uninit x (withOutputs s a b f d) uninit]
    · rw [exec_step_of_init x s uninit, exec_step_of_init x (withOutputs s a b f d) uninit]
      rfl

/-- The other two commands hold the state (R161, R164). -/
theorem exec_of_not_active {i : Instr} (idle : i.isActive = false) (s : State) : exec i s = .next s := by
  cases i with
  | nop => exact exec_nop s
  | rsvd => exact exec_rsvd s
  | init kp0 ki0 => simp [Instr.isActive] at idle
  | step x => simp [Instr.isActive] at idle

/-- A run without an `INIT` or a `STEP` holds the state. -/
theorem runInstrs_of_not_active {is : List Instr} (idle : is.any Instr.isActive = false) (s : State) :
    runInstrs is s = .next s := by
  induction is with
  | nil => rfl
  | cons i is ih =>
    obtain ⟨hi, his⟩ := Bool.or_eq_false_iff.mp (List.any_cons ▸ idle)
    rw [runInstrs_cons_of_next (exec_of_not_active hi s), ih his]

/-- From the first `INIT` or `STEP` on, a run has forgotten the four registers. -/
theorem runInstrs_withOutputs_of_active {is : List Instr} (active : is.any Instr.isActive = true) (s : State)
    (a b f d : Word) : runInstrs is (withOutputs s a b f d) = runInstrs is s := by
  induction is with
  | nil => simp at active
  | cons i is ih =>
    cases hi : i.isActive with
    | true => rw [runInstrs, runInstrs, exec_withOutputs_of_active hi]
    | false =>
      have his : is.any Instr.isActive = true := by simpa [hi] using active
      rw [runInstrs_cons_of_next (exec_of_not_active hi _), runInstrs_cons_of_next (exec_of_not_active hi _), ih his]

/-- Settles O40: a run with an `INIT` or a `STEP` ends in the same state, and any other holds both states. -/
theorem outputRegistersInfluenceNothing : Obligations.OutputRegistersInfluenceNothing := by
  intro is s t a b f d run
  cases active : is.any Instr.isActive with
  | true =>
    have same := (runInstrs_withOutputs_of_active active s a b f d).trans run
    exact ⟨t, same, rfl, rfl, rfl, rfl, rfl, rfl, fun _ => rfl⟩
  | false =>
    rw [runInstrs_of_not_active active s] at run
    cases run
    have held := runInstrs_of_not_active active (withOutputs s a b f d)
    exact ⟨_, held, rfl, rfl, rfl, rfl, rfl, rfl, fun h => by cases h⟩

end Sys2Proof.Proofs

namespace Sys2Proof.Proofs

open Sys2Proof.Machine

/-! ### The table reads (R52) -/

/-- `INIT` reads the entries of the phase it sets, 0, and of a quarter turn (R52). -/
theorem romReads_init (kp0 ki0 : Word) (s : State) : romReads (.init kp0 ki0) s = [0#10, 256#10] := rfl

/-- A sample tick reads at the phase it starts from and a quarter turn ahead of it (R52, R110). -/
theorem romReads_step_of_init (x : Sample) {s : State} (started : s.phase ≠ .uninit) :
    romReads (.step x) s = [sidx (presented s.theta), sidx (presented s.theta) + 256#10] := if_neg started

/-- Settles O19: a held state keeps both caches; `INIT` reads from index 0, a sample tick from its phase's index. -/
theorem twoReadsFillTheCaches : Obligations.TwoReadsFillTheCaches := by
  intro i s t run
  obtain ⟨rfl | rfl, rfl⟩ | ⟨kp0, ki0, rfl, rfl⟩ | ⟨x, rfl, started, rfl⟩ := exec_cases run
  · exact .inl ⟨rfl, rfl, rfl⟩
  · exact .inl ⟨rfl, rfl, rfl⟩
  · exact .inr ⟨0#10, romReads_init kp0 ki0 s, initialise_sinCached .., initialise_cosCached ..⟩
  · exact .inr ⟨sidx (presented s.theta), romReads_step_of_init x started, sampleTick_sinCached ..,
      sampleTick_cosCached ..⟩

/-! ### The contract of the sine table (R51) -/

/-- Where the ideal sine, scaled to Q30, is itself a word, the contract leaves the table no other word. -/
theorem sineContract_entry {t : Index → Word} (contract : SineContract t) {i : Index} {v : Word} {angle : ℝ}
    (turn : 2 * Real.pi * (i.toNat : ℝ) / 1024 = angle) (ideal : Real.sin angle * 2 ^ 30 = ((v.toInt : ℤ) : ℝ)) :
    t i = v := by
  have near := contract i
  rw [turn, ideal] at near
  have close : |(t i).toInt - v.toInt| < 1 := by exact_mod_cast near
  exact BitVec.eq_of_toInt_eq (sub_eq_zero.mp (Int.abs_lt_one_iff.mp close))

/-- Settles O20: at each quarter turn the sine is 0, 1, 0 and -1, so the scaled sine is a word. -/
theorem sineContractGivesExactEntries : Obligations.SineContractGivesExactEntries := by
  intro t contract
  have one : (0x40000000#32 : Word).toInt = 2 ^ 30 := by decide
  have minusOne : (0xC0000000#32 : Word).toInt = -2 ^ 30 := by decide
  refine ⟨sineContract_entry contract (angle := 0) ?start ?sinStart,
    sineContract_entry contract (angle := Real.pi / 2) ?quarter ?sinQuarter,
    sineContract_entry contract (angle := Real.pi) ?half ?sinHalf,
    sineContract_entry contract (angle := Real.pi / 2 + Real.pi) ?threeQuarters ?sinThreeQuarters⟩
  case start => simp
  case quarter => norm_num; ring
  case half => norm_num; ring
  case threeQuarters => norm_num; ring
  case sinStart => simp
  case sinQuarter => rw [Real.sin_pi_div_two, one]; norm_num
  case sinHalf => simp
  case sinThreeQuarters => rw [Real.sin_add_pi, Real.sin_pi_div_two, minusOne]; norm_num

/-! ### Presented words (R58, R160) -/

/-- A tick with a word on the port runs its command, the later words still to come (R71). -/
theorem step_of_cmds_cons {s : State} {w : Cmd} {rest : List Cmd} (hcmds : s.cmds = w :: rest) :
    Sys2Proof.Machine.step s = exec (decode w) { s with cmds := rest } := by
  rw [Sys2Proof.Machine.step, fetch, hcmds]

/-- The one way a command stops (R165). -/
theorem exec_refused_cases {i : Instr} {s : State} {r : Refusal} (stop : exec i s = .refused r) :
    r = .stepBeforeInit ∧ s.phase = .uninit ∧ ∃ x, i = .step x := by
  cases i with
  | nop => simp at stop
  | rsvd => simp at stop
  | init kp0 ki0 => simp at stop
  | step x =>
    by_cases uninit : s.phase = .uninit
    · rw [exec_step_of_uninit x s uninit] at stop
      cases stop
      exact ⟨rfl, uninit, x, rfl⟩
    · rw [exec_step_of_init x s uninit] at stop
      cases stop

/-- A command that answers does the same whatever words are still to come. -/
theorem exec_withCmds_of_next {i : Instr} {s t : State} (run : exec i s = .next t) (ws : List Cmd) :
    exec i { s with cmds := ws } = .next { t with cmds := ws } := by
  obtain ⟨rfl | rfl, rfl⟩ | ⟨kp0, ki0, rfl, rfl⟩ | ⟨x, rfl, started, rfl⟩ := exec_cases run
  · exact exec_nop _
  · exact exec_rsvd _
  · exact exec_init ..
  · exact exec_step_of_init x { s with cmds := ws } started

/-- A command that is refused is refused whatever words are still to come. -/
theorem exec_withCmds_of_refused {i : Instr} {s : State} {r : Refusal} (stop : exec i s = .refused r)
    (ws : List Cmd) : exec i { s with cmds := ws } = .refused r := by
  obtain ⟨rfl, uninit, x, rfl⟩ := exec_refused_cases stop
  exact exec_step_of_uninit x { s with cmds := ws } uninit

/-- A run ends where its first command is refused (R167). -/
theorem runInstrs_cons_of_refused {i : Instr} {is : List Instr} {s : State} {r : Refusal}
    (stop : exec i s = .refused r) : runInstrs (i :: is) s = .refused r := by
  simp [runInstrs, stop]

/-- Settles O54, by induction on the words: the first word's command does the same with the later words on the port and
with none, so the ticks and the run go on from states that differ in those words alone, or both stop. -/
theorem presentedWordsRunInOrder : Obligations.PresentedWordsRunInOrder := by
  intro ws
  induction ws with
  | nil => exact fun s => rfl
  | cons w ws ih =>
    intro s
    have tick : Sys2Proof.Machine.step { s with cmds := w :: ws } = exec (decode w) { s with cmds := ws } :=
      step_of_cmds_cons rfl
    rw [List.length_cons, List.map_cons]
    cases first : exec (decode w) s with
    | next t =>
      rw [core_run_succ_of_next _ (tick.trans (exec_withCmds_of_next first ws)),
        runInstrs_cons_of_next (exec_withCmds_of_next first [])]
      exact ih t
    | fault r => exact nomatch r
    | refused r =>
      have runStops := runInstrs_cons_of_refused (is := ws.map decode) (exec_withCmds_of_refused first [])
      exact (core_run_succ_of_refused _ (tick.trans (exec_withCmds_of_refused first ws))).trans runStops.symm

end Sys2Proof.Proofs

namespace Sys2Proof.Proofs

open Sys2Proof.Machine

/-! ### The fields of a word and the words of fields (R72) -/

/-- The value of a word from its three fields (R72). -/
theorem wordOfFields_toNat (op : BitVec 2) (a b : Word) :
    (wordOfFields op a b).toNat = op.toNat * 2 ^ 64 + a.toNat * 2 ^ 32 + b.toNat := by
  have ha := a.isLt
  have hb := b.isLt
  have high := BitVec.toNat_append op a
  rw [← Nat.shiftLeft_add_eq_or_of_lt ha, Nat.shiftLeft_eq] at high
  rw [wordOfFields, BitVec.toNat_append, ← Nat.shiftLeft_add_eq_or_of_lt hb, Nat.shiftLeft_eq, high]
  omega

/-- The value of the `a` field (R72). -/
theorem aField_toNat (w : Cmd) : (aField w).toNat = w.toNat / 2 ^ 32 % 2 ^ 32 := by
  rw [aField, BitVec.extractLsb'_toNat, Nat.shiftRight_eq_div_pow]

/-- The value of the `b` field (R72). -/
theorem bField_toNat (w : Cmd) : (bField w).toNat = w.toNat % 2 ^ 32 := by
  rw [bField, BitVec.extractLsb'_toNat, Nat.shiftRight_zero]

/-- The value of the sample field (R73). -/
theorem xField_toNat (w : Cmd) : (xField w).toNat = w.toNat % 2 ^ 24 := by
  rw [xField, BitVec.extractLsb'_toNat, Nat.shiftRight_zero]

/-- The value of the bits between the sample and the `a` field (R73). -/
theorem sIgnored_toNat (w : Cmd) : (sIgnored w).toNat = w.toNat / 2 ^ 24 % 2 ^ 8 := by
  rw [sIgnored, BitVec.extractLsb'_toNat, Nat.shiftRight_eq_div_pow]

/-- The value of the opcode field, the two bits on top (R72). -/
theorem opField_toNat (w : Cmd) : (opField w).toNat = w.toNat / 2 ^ 64 := by
  have hw := w.isLt
  rw [opField, BitVec.extractLsb'_toNat, Nat.shiftRight_eq_div_pow]
  omega

/-- A word is put together from its own fields (R72). -/
theorem wordOfFields_fields (w : Cmd) : wordOfFields (opField w) (aField w) (bField w) = w := by
  apply BitVec.eq_of_toNat_eq
  rw [wordOfFields_toNat, opField_toNat, aField_toNat, bField_toNat]
  omega

/-- The three fields determine the word. -/
theorem wordOfFields_eq_iff (op : BitVec 2) (a b : Word) (w : Cmd) :
    wordOfFields op a b = w ↔ opField w = op ∧ aField w = a ∧ bField w = b := by
  constructor
  · rintro rfl
    exact ⟨opField_wordOfFields .., aField_wordOfFields .., bField_wordOfFields ..⟩
  · rintro ⟨rfl, rfl, rfl⟩
    exact wordOfFields_fields w

/-- In format S, `b` holds the sample alone exactly when the bits above it are 0 (R73, R77). -/
theorem bField_eq_xField_iff (w : Cmd) : bField w = (xField w).setWidth 32 ↔ sIgnored w = 0#8 := by
  rw [← BitVec.toNat_inj, ← BitVec.toNat_inj, BitVec.toNat_setWidth, bField_toNat, xField_toNat, sIgnored_toNat,
    BitVec.toNat_ofNat]
  omega

/-- The sample field of a word whose `b` is a zero-extended sample. -/
theorem xField_wordOfFields (op : BitVec 2) (a : Word) (x : Sample) :
    xField (wordOfFields op a (x.setWidth 32)) = x := by
  have hx := x.isLt
  apply BitVec.eq_of_toNat_eq
  rw [xField_toNat, wordOfFields_toNat, BitVec.toNat_setWidth]
  omega

/-! ### What a word decodes to (R74) -/

section
variable {w : Cmd}

theorem decode_of_nop (op : opField w = 0b00#2) : decode w = .nop := by
  simp [decode, op]

theorem decode_of_init (op : opField w = 0b01#2) : decode w = .init (aField w) (bField w) := by
  simp [decode, op]

theorem decode_of_step (op : opField w = 0b10#2) : decode w = .step (xField w) := by
  simp [decode, op]

theorem decode_of_rsvd (op : opField w = 0b11#2) : decode w = .rsvd := by
  simp [decode, op]

/-- The four opcodes (R74). -/
theorem opField_cases (w : Cmd) :
    opField w = 0b00#2 ∨ opField w = 0b01#2 ∨ opField w = 0b10#2 ∨ opField w = 0b11#2 := by
  generalize opField w = op
  revert op
  decide

/-- The decoded command has the opcode of the word (R74). -/
theorem opcode_decode (w : Cmd) : (decode w).opcode = opField w := by
  obtain op | op | op | op := opField_cases w
  · rw [decode_of_nop op, op, Instr.opcode]
  · rw [decode_of_init op, op, Instr.opcode]
  · rw [decode_of_step op, op, Instr.opcode]
  · rw [decode_of_rsvd op, op, Instr.opcode]

theorem decode_eq_nop_iff : decode w = .nop ↔ opField w = 0b00#2 :=
  ⟨fun h => by rw [← opcode_decode, h, Instr.opcode], decode_of_nop⟩

theorem decode_eq_rsvd_iff : decode w = .rsvd ↔ opField w = 0b11#2 :=
  ⟨fun h => by rw [← opcode_decode, h, Instr.opcode], decode_of_rsvd⟩

/-- The words of an `INIT`, and where its operands stand in them (R75). -/
theorem decode_eq_init_iff {kp0 ki0 : Word} :
    decode w = .init kp0 ki0 ↔ opField w = 0b01#2 ∧ aField w = kp0 ∧ bField w = ki0 := by
  constructor
  · intro h
    have op : opField w = 0b01#2 := by rw [← opcode_decode, h, Instr.opcode]
    rw [decode_of_init op] at h
    exact ⟨op, Instr.init.inj h⟩
  · rintro ⟨op, rfl, rfl⟩
    exact decode_of_init op

/-- The words of a `STEP`, and where its operand stands in them (R76). -/
theorem decode_eq_step_iff {x : Sample} : decode w = .step x ↔ opField w = 0b10#2 ∧ xField w = x := by
  constructor
  · intro h
    have op : opField w = 0b10#2 := by rw [← opcode_decode, h, Instr.opcode]
    rw [decode_of_step op] at h
    exact ⟨op, Instr.step.inj h⟩
  · rintro ⟨op, rfl⟩
    exact decode_of_step op

/-! ### Canonical words (R77) -/

/-- In format N all bits below the opcode are ignored. -/
theorem canonical_of_formatN (op : opField w = 0b00#2 ∨ opField w = 0b11#2) :
    canonical w = true ↔ aField w = 0#32 ∧ bField w = 0#32 := by
  obtain op | op := op <;> simp [canonical, op]

/-- In format I no bit is ignored. -/
theorem canonical_of_init (op : opField w = 0b01#2) : canonical w = true := by
  simp [canonical, op]

/-- In format S the bits above the sample are ignored. -/
theorem canonical_of_step (op : opField w = 0b10#2) :
    canonical w = true ↔ aField w = 0#32 ∧ sIgnored w = 0#8 := by
  simp [canonical, op]

end

/-- Settles O2: a word is rebuilt exactly when its `a` and `b` are those the assembler emits for its command. -/
theorem encodeDecodeIffCanonical : Obligations.EncodeDecodeIffCanonical := by
  intro w
  obtain op | op | op | op := opField_cases w
  · rw [decode_of_nop op, encode, wordOfFields_eq_iff, canonical_of_formatN (.inl op)]
    exact and_iff_right op
  · rw [decode_of_init op, encode, wordOfFields_eq_iff]
    exact iff_of_true ⟨op, rfl, rfl⟩ (canonical_of_init op)
  · rw [decode_of_step op, encode, wordOfFields_eq_iff, canonical_of_step op, bField_eq_xField_iff]
    exact and_iff_right op
  · rw [decode_of_rsvd op, encode, wordOfFields_eq_iff, canonical_of_formatN (.inr op)]
    exact and_iff_right op

/-- Decoding undoes assembly (R74, R80). -/
theorem decode_encode (i : Instr) : decode (encode i) = i := by
  cases i with
  | nop => exact decode_of_nop (opField_wordOfFields ..)
  | init kp0 ki0 =>
    exact decode_eq_init_iff.mpr ⟨opField_wordOfFields .., aField_wordOfFields .., bField_wordOfFields ..⟩
  | step x => exact decode_eq_step_iff.mpr ⟨opField_wordOfFields .., xField_wordOfFields ..⟩
  | rsvd => exact decode_of_rsvd (opField_wordOfFields ..)

/-- Settles O1: decoding undoes assembly, so the assembled word is assembled from what it decodes to, which makes it
canonical (`encodeDecodeIffCanonical`). -/
theorem decodeEncodeRoundTrip : Obligations.DecodeEncodeRoundTrip :=
  fun i => ⟨decode_encode i, (encodeDecodeIffCanonical _).mp (by rw [decode_encode])⟩

/-! ### The tick and the ignored bits (R70, R71, R77) -/

/-- A tick with no word on the port holds the state (R167). -/
theorem step_of_cmds_nil {s : State} (hcmds : s.cmds = []) : Sys2Proof.Machine.step s = .next s := by
  rw [Sys2Proof.Machine.step, fetch, hcmds, hold]

/-- Settles O45, by the two cases of the port. -/
theorem tickRunsTheDecodedCommand : Obligations.TickRunsTheDecodedCommand :=
  ⟨fun _ _ _ => step_of_cmds_cons, fun _ => step_of_cmds_nil⟩

/-- A tick sees the word on the port only through its decoding. -/
theorem step_congr_of_decode {w w' : Cmd} (same : decode w = decode w') (rest : List Cmd) (s : State) :
    Sys2Proof.Machine.step { s with cmds := w :: rest } = Sys2Proof.Machine.step { s with cmds := w' :: rest } := by
  rw [step_of_cmds_cons (w := w) (rest := rest) rfl, step_of_cmds_cons (w := w') (rest := rest) rfl, same]

/-- The assembler leaves `cmd[63:24]` of a `STEP` 0 (R77). -/
theorem encode_step_ignored (x : Sample) : ((encode (.step x)).extractLsb' 24 40 : BitVec 40) = 0#40 := by
  have hx := x.isLt
  apply BitVec.eq_of_toNat_eq
  rw [BitVec.extractLsb'_toNat, Nat.shiftRight_eq_div_pow, encode, wordOfFields_toNat, BitVec.toNat_setWidth]
  simp only [BitVec.toNat_ofNat]
  omega

/-- Settles O3: words that differ in ignored bits decode alike, and a tick sees no more than the decoding. -/
theorem ignoredBitsHaveNoEffect : Obligations.IgnoredBitsHaveNoEffect := by
  refine ⟨fun w w' rest s op same => ?formatN, fun w w' rest s op same hx => ?formatS, fun i op => ?zerosN,
    encode_step_ignored⟩
  case formatN =>
    apply step_congr_of_decode
    obtain op | op := op
    · rw [decode_of_nop op, decode_of_nop (same.trans op)]
    · rw [decode_of_rsvd op, decode_of_rsvd (same.trans op)]
  case formatS =>
    apply step_congr_of_decode
    rw [decode_of_step op, decode_of_step (same.trans op)]
    exact congrArg Instr.step hx
  case zerosN =>
    cases i with
    | nop => decide
    | rsvd => decide
    | init kp0 ki0 => simp [Instr.opcode] at op
    | step x => simp [Instr.opcode] at op

/-! ### The opcode table (R74) -/

/-- The opcode-table row of a command. -/
def rowOf (i : Instr) : Row :=
  { mnemonic := i.mnemonic, mask := 0x30000000000000000#66, pattern := wordOfFields i.opcode 0#32 0#32 }

theorem rowOf_mem (i : Instr) : rowOf i ∈ opcodeRows := by
  cases i with
  | nop => decide
  | rsvd => decide
  | init kp0 ki0 => show rowOf (.init 0#32 0#32) ∈ opcodeRows; decide
  | step x => show rowOf (.step 0#24) ∈ opcodeRows; decide

/-- A row of the table covers the words whose opcode, the other bits cleared, is its pattern. -/
theorem covers_iff {r : Row} (hr : r ∈ opcodeRows) (w : Cmd) :
    r.covers w = true ↔ r.pattern = wordOfFields (opField w) 0#32 0#32 := by
  have mask : ∀ r ∈ opcodeRows, r.mask = 0x30000000000000000#66 := by decide
  rw [Row.covers, mask r hr, and_opMask, beq_iff_eq, eq_comm]

/-- No two rows of the table have one pattern. -/
theorem row_eq_of_pattern_eq : ∀ r ∈ opcodeRows, ∀ r' ∈ opcodeRows, r'.pattern = r.pattern → r' = r := by
  decide

/-- The row of the decoded command covers the word. -/
theorem rowOf_decode_pattern (w : Cmd) : (rowOf (decode w)).pattern = wordOfFields (opField w) 0#32 0#32 := by
  rw [rowOf, opcode_decode]

/-- Settles O4: the opcode field fixes the command, and the patterns of the rows are the opcodes. -/
theorem everyWordIsExactlyOneCommand : Obligations.EveryWordIsExactlyOneCommand := by
  intro w
  have hrow := rowOf_mem (decode w)
  have pattern := rowOf_decode_pattern w
  refine ⟨decode_eq_nop_iff.symm, ⟨fun op => ⟨_, _, decode_of_init op⟩, ?init⟩,
    ⟨fun op => ⟨_, decode_of_step op⟩, ?step⟩, decode_eq_rsvd_iff.symm, rowOf (decode w), hrow, (covers_iff hrow w).mpr pattern, rfl, ?unique⟩
  case init => exact fun ⟨_, _, h⟩ => (decode_eq_init_iff.mp h).1
  case step => exact fun ⟨_, h⟩ => (decode_eq_step_iff.mp h).1
  case unique =>
    intro r hr covers
    exact row_eq_of_pattern_eq _ hrow r hr (((covers_iff hr w).mp covers).trans pattern.symm)

/-! ### Operands (R75, R76, R208) -/

/-- The sign extension of a field, from the value of its bits. -/
theorem toInt_of_toNat {n v : Nat} {x : BitVec (n + 1)} (value : x.toNat = v) :
    x.toInt = if v < 2 ^ n then (v : Int) else (v : Int) - 2 ^ (n + 1) := by
  rw [BitVec.toInt_eq_toNat_cond, value]
  have half : 2 * v < 2 ^ (n + 1) ↔ v < 2 ^ n := by omega
  simp only [half, Nat.cast_pow, Nat.cast_ofNat]

/-- Settles O5: the operands are fields of the word, each sign-extended. -/
theorem operandsAreSignExtendedFields : Obligations.OperandsAreSignExtendedFields := by
  refine ⟨fun w kp0 ki0 h => ?_, fun w x h => ?_⟩
  · obtain ⟨-, rfl, rfl⟩ := decode_eq_init_iff.mp h
    exact ⟨toInt_of_toNat (aField_toNat w), toInt_of_toNat (bField_toNat w)⟩
  · obtain ⟨-, rfl⟩ := decode_eq_step_iff.mp h
    exact ⟨toInt_of_toNat (xField_toNat w), sample_range _⟩

/-- Settles O6: each word is evaluated. -/
theorem writtenWordsDecode : Obligations.WrittenWordsDecode := by
  unfold Obligations.WrittenWordsDecode
  decide

/-- An integer in the range of `s24` keeps its value as a sample (R76). -/
theorem sampleOfInt_of_range {v : Int} (lo : -8388608 ≤ v) (hi : v ≤ 8388607) :
    sampleOfInt v = some (BitVec.ofInt 24 v) := if_pos (by omega)

/-- An integer outside it has no sample (R208). -/
theorem sampleOfInt_of_outside {v : Int} (out : v < -8388608 ∨ 8388607 < v) : sampleOfInt v = none :=
  if_neg (by omega)

/-- Settles O9: in the range the sample is the integer's 24-bit pattern, which keeps its value. -/
theorem wideSampleRefusedOutOfRange : Obligations.WideSampleRefusedOutOfRange := by
  refine fun v => ⟨fun lo hi => ⟨BitVec.ofInt 24 v, sampleOfInt_of_range lo hi, ?_⟩, sampleOfInt_of_outside⟩
  rw [BitVec.toInt_ofInt, Int.bmod_eq_of_le (by omega) (by omega)]

end Sys2Proof.Proofs

namespace Sys2Proof.Proofs

open Sys2Proof.Machine

/-! ### The expansion of `.rept` (R81) -/

section
variable (cur : List Instr) (st : List (Nat × List Instr)) (ls : List Line)

@[simp] theorem expandFrom_nil : expandFrom cur [] [] = some cur := rfl

@[simp] theorem expandFrom_blank : expandFrom cur st (.blank :: ls) = expandFrom cur st ls := by
  cases st <;> rfl

@[simp] theorem expandFrom_cmd (i : Instr) : expandFrom cur st (.cmd i :: ls) = expandFrom (cur ++ [i]) st ls := by
  cases st <;> rfl

@[simp] theorem expandFrom_rept (n : Nat) :
    expandFrom cur st (.rept n :: ls) = expandFrom [] ((n, cur) :: st) ls := by
  cases st <;> rfl

@[simp] theorem expandFrom_endr (n : Nat) (outer : List Instr) :
    expandFrom cur ((n, outer) :: st) (.endr :: ls) = expandFrom (outer ++ (List.replicate n cur).flatten) st ls := rfl

end

/-- Lines that expand on their own do so inside any open `.rept`s, and what follows them starts from their commands. -/
theorem expandFrom_append {cur is : List Instr} {st : List (Nat × List Instr)} {body : List Line}
    (h : expandFrom cur st body = some is) (outer : List (Nat × List Instr)) (rest : List Line) :
    expandFrom cur (st ++ outer) (body ++ rest) = expandFrom is outer rest := by
  induction body generalizing cur st with
  | nil =>
    cases st with
    | nil =>
      cases h
      rfl
    | cons top st => cases h
  | cons l ls ih =>
    cases l with
    | blank =>
      rw [expandFrom_blank] at h
      rw [List.cons_append, expandFrom_blank, ih h]
    | cmd i =>
      rw [expandFrom_cmd] at h
      rw [List.cons_append, expandFrom_cmd, ih h]
    | rept n =>
      rw [expandFrom_rept] at h
      rw [List.cons_append, expandFrom_rept, ← List.cons_append, ih h]
    | endr =>
      cases st with
      | nil => cases h
      | cons top st => exact ih h

/-- Commands before a program's lines stay in front of what the lines expand to. They are held in `cur`, or, inside a
`.rept`, under the outermost one. -/
theorem expandFrom_after_commands (before : List Instr) {js : List Instr} (ls : List Line) :
    (∀ cur, expandFrom cur [] ls = some js → expandFrom (before ++ cur) [] ls = some (before ++ js)) ∧
    (∀ cur st n outer, expandFrom cur (st ++ [(n, outer)]) ls = some js →
      expandFrom cur (st ++ [(n, before ++ outer)]) ls = some (before ++ js)) := by
  induction ls with
  | nil =>
    refine ⟨fun cur h => ?_, fun cur st n outer h => ?_⟩
    · cases h
      rfl
    · cases st <;> cases h
  | cons l ls ih =>
    obtain ⟨ihOutside, ihInside⟩ := ih
    cases l with
    | blank =>
      simp only [expandFrom_blank]
      exact ⟨ihOutside, ihInside⟩
    | cmd i =>
      simp only [expandFrom_cmd, List.append_assoc]
      exact ⟨fun cur => ihOutside (cur ++ [i]), fun cur => ihInside (cur ++ [i])⟩
    | rept n =>
      simp only [expandFrom_rept, ← List.cons_append]
      exact ⟨fun cur => ihInside [] [] n cur, fun cur st => ihInside [] ((n, cur) :: st)⟩
    | endr =>
      refine ⟨fun cur h => absurd h (Option.some_ne_none js).symm, fun cur st n outer h => ?_⟩
      cases st with
      | nil =>
        rw [List.nil_append, expandFrom_endr] at h ⊢
        rw [List.append_assoc]
        exact ihOutside _ h
      | cons top st => exact ihInside _ st n outer h

/-- Settles O8: the body runs up to its `.endr` as on its own, and the copies stay in front of what follows. -/
theorem reptExpandsToCopies : Obligations.ReptExpandsToCopies := by
  intro n body after is js hbody hafter
  have inside : expandFrom [] [(n, [])] (body ++ .endr :: after) = expandFrom is [(n, [])] (.endr :: after) :=
    expandFrom_append hbody [(n, [])] _
  have outside := (expandFrom_after_commands (List.replicate n is).flatten after).1 [] hafter
  rw [List.append_nil] at outside
  rw [expand, List.cons_append, expandFrom_rept, inside, expandFrom_endr, List.nil_append, outside]

/-! ### Printed numbers (R79, R82) -/

/-- The sixteen digits read back as their values. -/
theorem hexValue_hexChar {d : Nat} (hd : d < 16) : hexValue (hexChar d) = some d := by
  have digits : ∀ d : Fin 16, hexValue (hexChar d) = some d.val := by decide
  exact digits ⟨d, hd⟩

theorem hexDigits_length (k v : Nat) : (hexDigits k v).length = k := by
  induction k with
  | zero => rfl
  | succ k ih => rw [hexDigits, List.length_cons, ih]

/-- Printed digits read back as the low `k` digits of the number, after those read already. -/
theorem digitsFrom_hexDigits (k v acc : Nat) :
    digitsFrom 16 hexValue acc (hexDigits k v) = some (16 ^ k * acc + v % 16 ^ k) := by
  induction k generalizing acc with
  | zero => simp [hexDigits, digitsFrom, Nat.mod_one]
  | succ k ih =>
    have split : v % 16 ^ (k + 1) = v % 16 ^ k + 16 ^ k * (v / 16 ^ k % 16) := by rw [pow_succ, Nat.mod_mul]
    simp only [hexDigits, digitsFrom, hexValue_hexChar (Nat.mod_lt _ (by decide : 16 > 0)), ih, split]
    congr 1
    ring

/-- A printed pattern reads back as itself when its digits are all that its width allows. -/
theorem immediate_hexDigits {k : Nat} (hk : 0 < k) (x : BitVec (4 * k)) :
    immediate (4 * k) ('0' :: 'x' :: hexDigits k x.toNat) = some x := by
  have fits : 1 ≤ (hexDigits k x.toNat).length ∧ (hexDigits k x.toNat).length ≤ 4 * k / 4 := by
    rw [hexDigits_length]
    omega
  have room : x.toNat < 16 ^ k := by
    have h := x.isLt
    rwa [pow_mul] at h
  rw [immediate, if_pos fits, digitsFrom_hexDigits, Nat.mul_zero, Nat.zero_add, Nat.mod_eq_of_lt room, Option.map_some,
    BitVec.ofNat_toNat, BitVec.setWidth_eq]

/-! ### Tokens of a printed line (R79) -/

/-- A character that the assembler gives no meaning of its own: it is part of a token. -/
def Plain (c : Char) : Prop := c ∉ [' ', '\t', '\r', ',', '\n', ';']

theorem plain_hexDigits (k v : Nat) : ∀ c ∈ hexDigits k v, Plain c := by
  have digits : ∀ d : Fin 16, Plain (hexChar d) := by unfold Plain; decide
  induction k with
  | zero => exact List.forall_mem_nil _
  | succ k ih => exact List.forall_mem_cons.mpr ⟨digits ⟨_, Nat.mod_lt _ (by decide)⟩, ih⟩

/-- Plain characters are gathered into the token. -/
theorem tokensFrom_plain_append {t : List Char} (plain : ∀ c ∈ t, Plain c) (cur rest : List Char) :
    tokensFrom cur (t ++ rest) = tokensFrom (t.reverse ++ cur) rest := by
  induction t generalizing cur with
  | nil => rfl
  | cons c cs ih =>
    obtain ⟨hc, hcs⟩ := List.forall_mem_cons.mp plain
    simp only [Plain, List.mem_cons, not_or] at hc
    obtain ⟨space, tab, cr, comma, -⟩ := hc
    simp [tokensFrom, space, tab, cr, comma, ih hcs]

section
variable {t : List Char} (token : t ≠ []) (plain : ∀ c ∈ t, Plain c)
include token

/-- The token gathered from the characters of `t`. -/
theorem flushToken_reverse : flushToken t.reverse = [t] := by
  rw [flushToken, if_neg (mt List.reverse_eq_nil_iff.mp token), List.reverse_reverse]

include plain

theorem tokensFrom_token : tokensFrom [] t = [t] := by
  have gather := tokensFrom_plain_append plain [] []
  rwa [List.append_nil, List.append_nil, tokensFrom, flushToken_reverse token] at gather

theorem tokensFrom_token_space (rest : List Char) : tokensFrom [] (t ++ ' ' :: rest) = t :: tokensFrom [] rest := by
  rw [tokensFrom_plain_append plain, List.append_nil, tokensFrom, if_pos (.inl rfl), flushToken_reverse token]
  rfl

theorem tokensFrom_token_comma_space (rest : List Char) :
    tokensFrom [] (t ++ ',' :: ' ' :: rest) = t :: [','] :: tokensFrom [] rest := by
  rw [tokensFrom_plain_append plain, List.append_nil, tokensFrom, if_neg (by decide), if_pos rfl,
    flushToken_reverse token]
  rfl

end

/-! ### Assembly of a printed command (R80, R82) -/

/-- A `0x` operand as the disassembler prints it. -/
def hexOperand (k v : Nat) : List Char := '0' :: 'x' :: hexDigits k v

theorem hexOperand_ne_nil (k v : Nat) : hexOperand k v ≠ [] := List.cons_ne_nil _ _

theorem plain_hexOperand (k v : Nat) : ∀ c ∈ hexOperand k v, Plain c :=
  List.forall_mem_cons.mpr ⟨by simp [Plain], List.forall_mem_cons.mpr ⟨by simp [Plain], plain_hexDigits k v⟩⟩

section
variable (kp0 ki0 : Word) (x : Sample)

theorem printInstr_nop : printInstr .nop = "NOP".toList := rfl

theorem printInstr_init : printInstr (.init kp0 ki0) =
    "INIT".toList ++ ' ' :: (hexOperand 8 kp0.toNat ++ ',' :: ' ' :: hexOperand 8 ki0.toNat) := rfl

theorem printInstr_step : printInstr (.step x) = "STEP".toList ++ ' ' :: hexOperand 6 x.toNat := rfl

theorem printInstr_rsvd : printInstr .rsvd = "RSVD".toList := rfl

end

/-- A plain character ends neither the line nor the statement. -/
theorem Plain.ne_newline_semicolon {c : Char} (plain : Plain c) : c ≠ '\n' ∧ c ≠ ';' := by
  simp only [Plain, List.mem_cons, not_or] at plain
  obtain ⟨-, -, -, -, newline, semicolon, -⟩ := plain
  exact ⟨newline, semicolon⟩

/-- A printed command is one line without a comment. -/
theorem printInstr_one_line (i : Instr) : ∀ c ∈ printInstr i, c ≠ '\n' ∧ c ≠ ';' := by
  have operand (k v : Nat) (c : Char) (hc : c ∈ hexOperand k v) : c ≠ '\n' ∧ c ≠ ';' :=
    (plain_hexOperand k v c hc).ne_newline_semicolon
  cases i with
  | nop => simp [printInstr_nop]
  | rsvd => simp [printInstr_rsvd]
  | init kp0 ki0 =>
    simp only [printInstr_init, List.forall_mem_append, List.forall_mem_cons]
    exact ⟨by simp, by simp, operand _ _, by simp, by simp, operand _ _⟩
  | step x =>
    simp only [printInstr_step, List.forall_mem_append, List.forall_mem_cons]
    exact ⟨by simp, by simp, operand _ _⟩

theorem beforeComment_eq_self {l : List Char} (h : ∀ c ∈ l, c ≠ ';') : beforeComment l = l :=
  List.takeWhile_eq_self_iff.mpr fun c hc => decide_eq_true (h c hc)

/-- A text without a newline is one line. -/
theorem linesFrom_eq_singleton {l : List Char} (h : ∀ c ∈ l, c ≠ '\n') (cur : List Char) :
    linesFrom cur l = [cur.reverse ++ l] := by
  induction l generalizing cur with
  | nil => simp [linesFrom]
  | cons c cs ih =>
    obtain ⟨hc, hcs⟩ := List.forall_mem_cons.mp h
    rw [linesFrom, if_neg hc, ih hcs, List.reverse_cons, List.append_assoc, List.singleton_append]

theorem lineOfTokens_init (a b : List Char) : lineOfTokens ["INIT".toList, a, [','], b] =
    (immediate 32 a).bind fun kp0 => (immediate 32 b).map fun ki0 => .cmd (.init kp0 ki0) := rfl

theorem lineOfTokens_step (a : List Char) :
    lineOfTokens ["STEP".toList, a] = (immediate 24 a).map fun x => .cmd (.step x) := rfl

/-- A printed word operand reads back as itself. -/
theorem immediate_hexOperand_word (x : Word) : immediate 32 (hexOperand 8 x.toNat) = some x :=
  immediate_hexDigits (k := 8) (by decide) x

/-- A printed sample reads back as itself. -/
theorem immediate_hexOperand_sample (x : Sample) : immediate 24 (hexOperand 6 x.toNat) = some x :=
  immediate_hexDigits (k := 6) (by decide) x

/-- A printed command reads back as its statement. -/
theorem lineOfTokens_printInstr (i : Instr) : lineOfTokens (tokensFrom [] (printInstr i)) = some (.cmd i) := by
  have operand (k v : Nat) := tokensFrom_token (hexOperand_ne_nil k v) (plain_hexOperand k v)
  cases i with
  | nop => decide
  | rsvd => decide
  | init kp0 ki0 =>
    have mnemonic : ∀ c ∈ "INIT".toList, Plain c := by simp [Plain]
    rw [printInstr_init, tokensFrom_token_space (by decide) mnemonic,
      tokensFrom_token_comma_space (hexOperand_ne_nil _ _) (plain_hexOperand _ _), operand, lineOfTokens_init,
      immediate_hexOperand_word, immediate_hexOperand_word, Option.bind_some, Option.map_some]
  | step x =>
    have mnemonic : ∀ c ∈ "STEP".toList, Plain c := by simp [Plain]
    rw [printInstr_step, tokensFrom_token_space (by decide) mnemonic, operand, lineOfTokens_step,
      immediate_hexOperand_sample, Option.map_some]

/-- Settles O7: the printed line is one line without a comment, and its tokens are those of the command's statement. -/
theorem assembleOfPrintedCommand : Obligations.AssembleOfPrintedCommand := by
  intro i
  have lines : linesFrom [] (printInstr i) = [printInstr i] :=
    linesFrom_eq_singleton (fun c hc => (printInstr_one_line i c hc).1) []
  have line : parseLine (printInstr i) = some (.cmd i) := by
    rw [parseLine, beforeComment_eq_self fun c hc => (printInstr_one_line i c hc).2, lineOfTokens_printInstr]
  simp [assemble, lines, parseLines, line, expand]

end Sys2Proof.Proofs

namespace Sys2Proof.Proofs

open Sys2Proof.Machine

/-! ### Saturation, addition and the floor shift (R91, R92, R93) -/

/-- Inside the range the clamp changes nothing (R91). -/
theorem sat32_toInt_of_range {v : Int} (lo : -2147483648 ≤ v) (hi : v ≤ 2147483647) : (sat32 v).toInt = v := by
  rw [sat32_toInt]
  omega

theorem sat32_of_lt {v : Int} (below : v < -2147483648) : sat32 v = 0x80000000#32 :=
  if_pos below

theorem sat32_of_gt {v : Int} (above : 2147483647 < v) : sat32 v = 0x7FFFFFFF#32 := by
  have notBelow : ¬ v < int32Min := by
    rw [int32Min]
    omega
  exact (if_neg notBelow).trans (if_pos above)

/-- The value of a word is in the range, so clamping it gives the word back. -/
@[simp] theorem sat32_toInt_word (a : Word) : sat32 a.toInt = a := by
  obtain ⟨lo, hi⟩ := word_range a
  exact BitVec.eq_of_toInt_eq (sat32_toInt_of_range lo hi)

/-- Settles O10: the clamp in integers is a `max` of a `min`. -/
theorem saturationClampsToRange : Obligations.SaturationClampsToRange := by
  refine ⟨fun v => ⟨sat32_of_lt, sat32_of_gt, sat32_toInt_of_range⟩, fun v w le => ?_,
    fun v => sat32_toInt_word _⟩
  rw [sat32_toInt, sat32_toInt]
  omega

/-- Settles O11: the clamp is applied to the sum of integers, which has the laws; the two bracketings differ because
only one of them meets the rail. -/
theorem saturatingAdditionClampsExactSum : Obligations.SaturatingAdditionClampsExactSum := by
  refine ⟨satAdd_toInt, fun a b => ?_, fun a => ?_, by decide⟩
  · rw [satAdd, satAdd, Int.add_comm]
  · rw [satAdd, BitVec.toInt_zero, Int.add_zero, sat32_toInt_word]

/-- Settles O12: the floor is the one integer between these bounds. -/
theorem arithmeticShiftIsFloor : Obligations.ArithmeticShiftIsFloor := by
  intro v q n
  rw [asr, Int.ediv_eq_iff_of_pos (by positivity), Int.add_mul, Int.one_mul]

/-- Negation turns the floor into the ceiling, which is one more unless the division is exact (R93, R96). -/
theorem asr_neg (v : Int) (n : Nat) : asr (-v) n = -asr v n - if v % 2 ^ n = 0 then 0 else 1 := by
  have positive : (0 : Int) < 2 ^ n := by positivity
  rw [asr, asr, Int.neg_ediv, Int.sign_eq_one_of_pos positive]
  simp only [Int.dvd_iff_emod_eq_zero]

/-! ### Multiplication and negation (R94, R95, R96) -/

theorem qmul30_toInt (a b : Word) :
    (qmul30 a b).toInt = max (-2147483648) (min 2147483647 (asr (a.toInt * b.toInt) 30)) :=
  sat32_toInt _

theorem qmul30_comm (a b : Word) : qmul30 a b = qmul30 b a := by
  rw [qmul30, qmul30, Int.mul_comm]

theorem qmul30_zero (b : Word) : qmul30 0#32 b = 0#32 := by
  rw [qmul30, BitVec.toInt_zero, Int.zero_mul]
  decide

/-- 1.0 in Q30 is `2^30`, and the shift takes it off again. -/
theorem qmul30_one (b : Word) : qmul30 0x40000000#32 b = b := by
  have exactFloor : asr (2 ^ 30 * b.toInt) 30 = b.toInt := Int.mul_ediv_cancel_left _ (by decide)
  have one : (0x40000000#32 : Word).toInt = 2 ^ 30 := by decide
  rw [qmul30, one, exactFloor, sat32_toInt_word]

/-- Settles O13: `asr` is the floor. In the counterexample to associativity half of the least positive word is 0, but
half of its product with -2.0 is not. -/
theorem fixedMultiplyIsClampedFloor : Obligations.FixedMultiplyIsClampedFloor := by
  refine ⟨fun a b q lo hi => ?_, qmul30_comm, qmul30_zero, qmul30_one,
    0x20000000#32, 1#32, 0x80000000#32, by decide⟩
  have floor : asr (a.toInt * b.toInt) 30 = q := (arithmeticShiftIsFloor _ q 30).mpr ⟨lo, hi⟩
  rw [qmul30_toInt, floor]

/-- The least word is the only one whose value has no negation in the range. -/
theorem word_toInt_gt_of_ne_min {a : Word} (notMin : a ≠ 0x80000000#32) : -2147483648 < a.toInt := by
  have least : (0x80000000#32 : Word).toInt = -2147483648 := by decide
  have differ : a.toInt ≠ -2147483648 := fun same => notMin (BitVec.eq_of_toInt_eq (same.trans least.symm))
  obtain ⟨lo, -⟩ := word_range a
  omega

/-- Settles O14: away from the least word the negated value is in the range. -/
theorem negationSaturatesOnlyAtMinimum : Obligations.NegationSaturatesOnlyAtMinimum := by
  refine fun a => ⟨?_, fun notMin => ?_⟩
  · rintro rfl
    decide
  · have above := word_toInt_gt_of_ne_min notMin
    obtain ⟨-, hi⟩ := word_range a
    exact sat32_toInt_of_range (by omega) (by omega)

/-- Settles O15: neither product clamps, so the results are the floors of a value and of its negation. -/
theorem multiplyOfNegatedOperand : Obligations.MultiplyOfNegatedOperand := by
  rintro a b notMin ⟨lo, hi⟩ ⟨negLo, negHi⟩
  have product : (qmul30 a b).toInt = asr (a.toInt * b.toInt) 30 := sat32_toInt_of_range lo hi
  have unit : (2 : Int) ^ 30 = 1073741824 := by decide
  have negProduct : (qmul30 (-a) b).toInt = asr (-(a.toInt * b.toInt)) 30 := by
    rw [qmul30, BitVec.toInt_neg_of_ne_intMin notMin, Int.neg_mul]
    exact sat32_toInt_of_range negLo negHi
  rw [product, negProduct, asr_neg, unit]
  constructor
  · intro exactly
    rw [if_pos exactly, Int.sub_zero]
  · intro dropped
    rw [if_neg dropped]

end Sys2Proof.Proofs

namespace Sys2Proof.Proofs

open Sys2Proof.Machine

/-! ### Integers in 64 bits (R97) -/

/-- Clamping a 64-bit value to a word (R97); `clamp64_eq_sat32` ties it to `SAT32`. -/
def clamp64 (v : BitVec 64) : Word :=
  if v.slt (BitVec.ofInt 64 (-2147483648)) then 0x80000000#32
  else if (2147483647#64).slt v then 0x7FFFFFFF#32 else v.setWidth 32

/-- A 64-bit value in the range of `s32` keeps its value in its low word (R11). -/
theorem setWidth_toInt_of_range {v : BitVec 64} (lo : -2147483648 ≤ v.toInt) (hi : v.toInt ≤ 2147483647) :
    (v.setWidth 32).toInt = v.toInt := by
  have coarser : 2 ^ 32 ∣ 2 ^ 64 := by decide
  rw [BitVec.toInt_setWidth, ← Int.bmod_bmod_of_dvd coarser, ← BitVec.toInt_eq_toNat_bmod,
    Int.bmod_eq_of_le (by omega) (by omega)]

/-- The 64-bit clamp is `SAT32` of the value held. -/
theorem clamp64_eq_sat32 (v : BitVec 64) : clamp64 v = sat32 v.toInt := by
  have least : (BitVec.ofInt 64 (-2147483648)).toInt = -2147483648 := by decide
  have greatest : (2147483647#64).toInt = 2147483647 := by decide
  simp only [clamp64, BitVec.slt_iff_toInt_lt, least, greatest]
  split_ifs with below above
  · exact (sat32_of_lt below).symm
  · exact (sat32_of_gt above).symm
  · apply BitVec.eq_of_toInt_eq
    rw [setWidth_toInt_of_range (by omega) (by omega), sat32_toInt_of_range (by omega) (by omega)]

/-- An integer of `s64` survives the wrap of a 64-bit operation. -/
theorem bmod64_of_range {v : Int} (lo : -9223372036854775808 ≤ v) (hi : v ≤ 9223372036854775807) :
    v.bmod (2 ^ 64) = v :=
  Int.bmod_eq_of_le (by omega) (by omega)

/-- Sign extension keeps the value (R11). -/
theorem signExtend64_toInt (a : Word) : (a.signExtend 64).toInt = a.toInt :=
  BitVec.toInt_signExtend_of_le (by decide)

/-- The arithmetic shift of a bit vector is `ASR` of its value (R93). -/
theorem sshiftRight_toInt {w : Nat} (v : BitVec w) (n : Nat) : (v.sshiftRight n).toInt = asr v.toInt n := by
  rw [BitVec.toInt_sshiftRight, Int.shiftRight_eq_div_pow, asr, Nat.cast_pow, Nat.cast_ofNat]

/-! ### Ranges of the intermediate values (R97) -/

/-- The product of two words: the extremes are at the corners of the two ranges. -/
theorem word_mul_range (a b : Word) :
    -4611686018427387904 + 2147483648 ≤ a.toInt * b.toInt ∧ a.toInt * b.toInt ≤ 4611686018427387904 := by
  obtain ⟨aLo, aHi⟩ := word_range a
  obtain ⟨bLo, bHi⟩ := word_range b
  rcases le_total 0 b.toInt with nonneg | nonpos
  · constructor <;> nlinarith
  · constructor <;> nlinarith

/-- The product of a frequency and a reciprocal below `2^32` fits 64 bits. -/
theorem word_mul_reciprocal_range (f : Word) {r : Nat} (small : r < 4294967296) :
    -9223372036854775808 ≤ f.toInt * (r : Int) ∧ f.toInt * (r : Int) ≤ 9223372036854775807 := by
  obtain ⟨lo, hi⟩ := word_range f
  constructor <;> nlinarith

/-! ### Each unit is its 64-bit computation (R97) -/

theorem satAdd_eq_clamp64 (a b : Word) : satAdd a b = clamp64 (a.signExtend 64 + b.signExtend 64) := by
  obtain ⟨aLo, aHi⟩ := word_range a
  obtain ⟨bLo, bHi⟩ := word_range b
  rw [clamp64_eq_sat32, BitVec.toInt_add, signExtend64_toInt, signExtend64_toInt,
    bmod64_of_range (by omega) (by omega), satAdd]

theorem qmul30_eq_clamp64 (a b : Word) :
    qmul30 a b = clamp64 ((a.signExtend 64 * b.signExtend 64).sshiftRight 30) := by
  obtain ⟨lo, hi⟩ := word_mul_range a b
  rw [clamp64_eq_sat32, sshiftRight_toInt, BitVec.toInt_mul, signExtend64_toInt, signExtend64_toInt,
    bmod64_of_range (by omega) (by omega), qmul30]

theorem negs_eq_clamp64 (a : Word) : negs a = clamp64 (-a.signExtend 64) := by
  obtain ⟨lo, hi⟩ := word_range a
  rw [clamp64_eq_sat32, BitVec.toInt_neg, signExtend64_toInt, bmod64_of_range (by omega) (by omega), negs]

theorem u2df_eq_clamp64 (u : Word) : u2df u = clamp64 ((u.signExtend 64).sshiftRight 5) := by
  rw [clamp64_eq_sat32, sshiftRight_toInt, signExtend64_toInt, u2df]

/-! ### The converter in 64 bits (R97, R141, R142) -/

theorem phinc_of_div {c : Config.Params} (mode : c.phincMode = .div) (f : Int) :
    phinc c f = f * 32 / (c.fs : Int) := by
  simp only [phinc, mode, phincDiv]

theorem phinc_of_recip {c : Config.Params} {k : Nat} (mode : c.phincMode = .recip k) (f : Int) :
    phinc c f = asr (f * (recipR k c.fs : Int)) (k - 5) := by
  simp only [phinc, mode, phincRecip, recipShift]

/-- The configuration check keeps the reciprocal below `2^32`. -/
theorem recipR_lt_of_wf {c : Config.Params} {k : Nat} (wf : c.wf = true) (mode : c.phincMode = .recip k) :
    recipR k c.fs < 4294967296 := by
  simp only [Config.Params.wf, Bool.and_eq_true, mode] at wf
  obtain ⟨-, inRange⟩ := wf
  obtain ⟨-, -, small⟩ := of_decide_eq_true inRange
  exact small

/-- A finer reciprocal is a larger number. -/
theorem recipR_mono (fs : Nat) {j k : Nat} (le : j ≤ k) : recipR j fs ≤ recipR k fs := by
  have power : 2 ^ j ≤ 2 ^ k := Nat.pow_le_pow_right (by decide) le
  exact Nat.div_le_div_right (by omega)

/-- At the reference sample rate the reciprocal passes `2^32` between `K` = 47 and 48. -/
theorem recipR_reference_lt_iff (k : Nat) : recipR k 40000 < 4294967296 ↔ k ≤ 47 := by
  have last : recipR 47 40000 < 4294967296 := by decide
  have first : 4294967296 ≤ recipR 48 40000 := by decide
  constructor
  · intro small
    by_contra above
    exact absurd small (not_lt.mpr (first.trans (recipR_mono 40000 (not_le.mp above))))
  · exact fun le => (recipR_mono 40000 le).trans_lt last

theorem word_mul_ofNat64_toInt (f : Word) {r : Nat} (small : r < 4294967296) :
    (f.signExtend 64 * BitVec.ofNat 64 r).toInt = f.toInt * (r : Int) := by
  obtain ⟨lo, hi⟩ := word_mul_reciprocal_range f small
  rw [BitVec.toInt_mul, signExtend64_toInt, BitVec.toInt_ofNat', bmod64_of_range (v := (r : Int)) (by omega) (by omega),
    bmod64_of_range lo hi]

/-- Settles O16: no 64-bit operation wraps, since each exact result is in range; the direct division's factor is 32. -/
theorem intermediatesFitSixtyFourBits : Obligations.IntermediatesFitSixtyFourBits := by
  refine ⟨⟨satAdd_eq_clamp64, qmul30_eq_clamp64, negs_eq_clamp64, u2df_eq_clamp64⟩, fun c f wf => ⟨?_, ?_⟩,
    recipR_reference_lt_iff, word_mul_range, fun a b => ?_, fun a => ?_, fun f => ?_⟩
  · intro mode
    have product : (f.signExtend 64 * 32#64).toInt = f.toInt * 32 := word_mul_ofNat64_toInt f (by decide)
    rw [phinc_of_div mode, product]
  · intro k mode
    have small := recipR_lt_of_wf wf mode
    refine ⟨?_, word_mul_reciprocal_range f small⟩
    rw [phinc_of_recip mode, sshiftRight_toInt, word_mul_ofNat64_toInt f small]
  · obtain ⟨aLo, aHi⟩ := word_range a
    obtain ⟨bLo, bHi⟩ := word_range b
    constructor <;> omega
  · obtain ⟨lo, hi⟩ := word_range a
    constructor <;> omega
  · obtain ⟨lo, hi⟩ := word_range f
    constructor <;> omega

end Sys2Proof.Proofs

namespace Sys2Proof.Proofs

open Sys2Proof.Machine

/-! ### The oscillator's indices (R110) -/

theorem sidx_toNat (v : Word) : (sidx v).toNat = v.toNat / 2 ^ 20 % 2 ^ 10 := by
  rw [sidx, BitVec.extractLsb'_toNat, Nat.shiftRight_eq_div_pow]

theorem cidx_toNat (v : Word) : (cidx v).toNat = ((sidx v).toNat + 256) % 1024 := BitVec.toNat_add _ _

/-- The 10-bit addition drops a carry exactly in the last quarter turn. -/
theorem cidx_lt_sidx_iff (v : Word) : (cidx v).toNat < (sidx v).toNat ↔ 768 ≤ (sidx v).toNat := by
  have inRange : (sidx v).toNat < 1024 := (sidx v).isLt
  rw [cidx_toNat]
  omega

/-- Settles O17: bits 29:20 are a division and a remainder, and the cosine index wraps where 256 more passes 1023. -/
theorem oscillatorIndices : Obligations.OscillatorIndices :=
  fun v => ⟨sidx_toNat v, cidx_toNat v, cidx_lt_sidx_iff v⟩

/-! ### The oscillator's outputs (R111, R112) -/

/-- The index is the floor of the phase in table steps: no rounding, no interpolation (R110). -/
theorem sidx_presented (theta : Theta) : sidx (presented theta) = BitVec.ofNat 10 (theta.toNat / 2 ^ 20) := by
  apply BitVec.eq_of_toNat_eq
  rw [sidx_toNat, presented_toNat, BitVec.toNat_ofNat]

theorem cidx_presented (theta : Theta) :
    cidx (presented theta) = BitVec.ofNat 10 ((theta.toNat / 2 ^ 20 + 256) % 1024) := by
  apply BitVec.eq_of_toNat_eq
  rw [cidx_toNat, sidx_presented, BitVec.toNat_ofNat, BitVec.toNat_ofNat]
  omega

theorem ncoSin_eq (c : Config.Params) (theta : Theta) :
    ncoSin c theta = c.sineTable (BitVec.ofNat 10 (theta.toNat / 2 ^ 20)) :=
  congrArg c.sineTable (sidx_presented theta)

theorem ncoCos_eq (c : Config.Params) (theta : Theta) :
    ncoCos c theta = c.sineTable (BitVec.ofNat 10 ((theta.toNat / 2 ^ 20 + 256) % 1024)) :=
  congrArg c.sineTable (cidx_presented theta)

/-- Settles O18: each output is the table at its index, and at a quarter turn the index is a numeral. -/
theorem oscillatorOutputsAreTableWords : Obligations.OscillatorOutputsAreTableWords := fun c =>
  ⟨fun theta => ⟨ncoSin_eq c theta, ncoCos_eq c theta⟩,
    ncoSin_eq c 0#30, ncoCos_eq c 0#30,
    ncoSin_eq c 0x10000000#30, ncoSin_eq c 0x20000000#30,
    ncoSin_eq c 0x30000000#30, ncoCos_eq c 0x30000000#30⟩

end Sys2Proof.Proofs

namespace Sys2Proof.Proofs

open Sys2Proof.Machine

/-! ### The rescaling (R120) -/

/-- 256 times the value of a sample is still the value of a word, so the pattern holds it exactly. -/
theorem rescale_toInt (x : Sample) : (rescale x).toInt = x.toInt * 256 := by
  obtain ⟨lo, hi⟩ := sample_range x
  exact ofInt_toInt_of_range _ (by omega) (by omega)

/-- The 8 bits shifted in are 0, since `2^32` is a multiple of 256. -/
theorem rescale_low_bits (x : Sample) : ((rescale x).extractLsb' 0 8 : BitVec 8) = 0#8 := by
  have multiple : (rescale x).toNat % 256 = 0 := by
    rw [rescale, BitVec.toNat_ofInt]
    omega
  apply BitVec.eq_of_toNat_eq
  rw [BitVec.extractLsb'_toNat, Nat.shiftRight_zero]
  exact multiple

/-- Settles O21: the range is that of the sample, scaled. -/
theorem rescalingIsLossless : Obligations.RescalingIsLossless := by
  intro x
  obtain ⟨lo, hi⟩ := sample_range x
  have exactly := rescale_toInt x
  exact ⟨exactly, by omega, by omega, rescale_low_bits x⟩

/-! ### The phase detector (R121) -/

theorem negs_toInt (a : Word) : (negs a).toInt = max (-2147483648) (min 2147483647 (-a.toInt)) :=
  sat32_toInt _

/-- The lower clamp of the negation is inert: the negated product is at least `-(2^31 - 1)`. -/
theorem pd_toInt (x30 s : Word) : (pd x30 s).toInt =
    min 2147483647 (-(max (-2147483648) (min 2147483647 (x30.toInt * s.toInt / 1073741824)))) := by
  have floor : asr (x30.toInt * s.toInt) 30 = x30.toInt * s.toInt / 1073741824 := rfl
  obtain ⟨-, hi⟩ := word_range (qmul30 x30 s)
  rw [pd, negs_toInt, pdProduct, ← floor, ← qmul30_toInt]
  omega

theorem qmul30_zero_right (a : Word) : qmul30 a 0#32 = 0#32 :=
  (qmul30_comm a _).trans (qmul30_zero a)

/-- No error comes out of a zero product. -/
theorem pd_of_product_zero {x30 s : Word} (zero : pdProduct x30 s = 0#32) : pd x30 s = 0#32 := by
  rw [pd, zero]
  decide

theorem pd_zero_sine (x30 : Word) : pd x30 0#32 = 0#32 :=
  pd_of_product_zero (qmul30_zero_right x30)

theorem pd_zero_input (s : Word) : pd 0#32 s = 0#32 :=
  pd_of_product_zero (qmul30_zero s)

/-- Settles O22: the negation is applied to the clamped floor of the product. -/
theorem detectorNegatesTheClampedProduct : Obligations.DetectorNegatesTheClampedProduct :=
  ⟨pd_toInt, pd_zero_sine⟩

/-! ### The correction and the frequency (R125, R126) -/

/-- Settles O24: with the clamp inert the correction is the floor of `u / 32`. -/
theorem correctionIsFloorOfControllerOutput : Obligations.CorrectionIsFloorOfControllerOutput := by
  intro u
  obtain ⟨lo, hi⟩ := u2df_range u
  have floor := u2df_toInt u
  exact ⟨by omega, by omega, lo, hi⟩

/-- Settles O25: rule R10 leaves the room that every correction needs. -/
theorem outputFrequencyIsExactSum : Obligations.OutputFrequencyIsExactSum :=
  fun _ u wf => outf_u2df_toInt wf u

/-! ### No error (R128, R163) -/

theorem satAdd_zero (a : Word) : satAdd a 0#32 = a := by
  obtain ⟨-, -, neutral, -⟩ := saturatingAdditionClampsExactSum
  exact neutral a

theorem satAdd_zero_left (a : Word) : satAdd 0#32 a = a := by
  obtain ⟨-, comm, -⟩ := saturatingAdditionClampsExactSum
  exact (comm _ a).trans (satAdd_zero a)

section
variable (c : Config.Params) (kp ki integrator : Word) (x : Sample) (s : Word)

/-! Each wire of the unit in terms of the wires before it (R127). -/

theorem pdpi_qerr : (pdpi c kp ki integrator x s).qerr = pd (rescale x) s := by
  simp only [pdpi]

theorem pdpi_p : (pdpi c kp ki integrator x s).p = proportional kp (pdpi c kp ki integrator x s).qerr := by
  simp only [pdpi]

theorem pdpi_iterm : (pdpi c kp ki integrator x s).iterm = integralTerm ki (pdpi c kp ki integrator x s).qerr := by
  simp only [pdpi]

theorem pdpi_integrator : (pdpi c kp ki integrator x s).integrator =
    integrate integrator (pdpi c kp ki integrator x s).iterm := by
  simp only [pdpi]

/-- The sum takes the integrator after its update, not before it (R124, D7). -/
theorem pdpi_u : (pdpi c kp ki integrator x s).u =
    controllerOut (pdpi c kp ki integrator x s).p (pdpi c kp ki integrator x s).integrator := by
  simp only [pdpi]

end

theorem rescale_zero : rescale 0#24 = 0#32 := by decide

/-- A zero sine and a zero sample each make the product 0. -/
theorem pd_rescale_of_zero {x : Sample} {s : Word} (zero : s = 0#32 ∨ x = 0#24) : pd (rescale x) s = 0#32 := by
  rcases zero with rfl | rfl
  · exact pd_zero_sine (rescale x)
  · rw [rescale_zero, pd_zero_input]

/-- Settles O26: no error makes both terms 0, and adding a zero term changes nothing. -/
theorem zeroSineOrSampleGivesNoError : Obligations.ZeroSineOrSampleGivesNoError := by
  intro c kp ki integrator x s zero
  have noError : (pdpi c kp ki integrator x s).qerr = 0#32 := by
    rw [pdpi_qerr, pd_rescale_of_zero zero]
  have noP : (pdpi c kp ki integrator x s).p = 0#32 := by
    rw [pdpi_p, noError, proportional, qmul30_zero_right]
  have noIterm : (pdpi c kp ki integrator x s).iterm = 0#32 := by
    rw [pdpi_iterm, noError, integralTerm, qmul30_zero_right]
  have kept : (pdpi c kp ki integrator x s).integrator = integrator := by
    rw [pdpi_integrator, noIterm, integrate, satAdd_zero]
  have output : (pdpi c kp ki integrator x s).u = integrator := by
    rw [pdpi_u, noP, kept, controllerOut, satAdd_zero_left]
  exact ⟨noError, noP, noIterm, kept, output⟩

end Sys2Proof.Proofs

namespace Sys2Proof.Proofs

open Sys2Proof.Machine

/-! ### The two realisations as floors (R141, R142) -/

/-- Settles O27: the quotient by a positive `FS` is the one integer between these bounds. -/
theorem directDivisionIsFloor : Obligations.DirectDivisionIsFloor := by
  intro fs f q fsPos
  rw [phincDiv, Int.ediv_eq_iff_of_pos (by exact_mod_cast fsPos), Int.add_mul, Int.one_mul]

theorem phincDiv_bounds {fs : Nat} (fsPos : 0 < fs) (f : Int) :
    phincDiv fs f * (fs : Int) ≤ f * 32 ∧ f * 32 < (phincDiv fs f + 1) * (fs : Int) :=
  (directDivisionIsFloor fs f _ fsPos).mp rfl

/-- Half up: `RECIP_R` exceeds the exact `2^K / FS` by at most a half and falls short of it by less than a half. -/
theorem recipR_bounds {fs : Nat} (fsPos : 0 < fs) (k : Nat) :
    2 * recipR k fs * fs ≤ 2 * 2 ^ k + fs ∧ 2 * 2 ^ k < 2 * recipR k fs * fs + fs := by
  have below : recipR k fs * (2 * fs) ≤ 2 * 2 ^ k + fs := Nat.div_mul_le_self _ _
  have above : 2 * 2 ^ k + fs < 2 * fs * (recipR k fs + 1) := Nat.lt_mul_div_succ _ (by omega)
  constructor <;> linarith

theorem phincRecip_bounds (k fs : Nat) (f : Int) :
    phincRecip k fs f * 2 ^ (k - 5) ≤ f * (recipR k fs : Int) ∧
      f * (recipR k fs : Int) < (phincRecip k fs f + 1) * 2 ^ (k - 5) :=
  asr_bounds _ _

/-- Settles O28: the rounding of the reciprocal, then the floor of the product. -/
theorem reciprocalMultiplyScaling : Obligations.ReciprocalMultiplyScaling := by
  intro k fs f fsPos _
  obtain ⟨roundLo, roundHi⟩ := recipR_bounds fsPos k
  obtain ⟨floorLo, floorHi⟩ := phincRecip_bounds k fs f
  exact ⟨roundLo, roundHi, floorLo, floorHi⟩

/-! ### Which reciprocals agree with the direct division (R143, R144, C1) -/

/-- Before the floors the realisations differ by `F * (RECIP_R * FS - 2^K) / (2^(K-5) * FS)`; where that is at most one
unit either way, so is the difference of the floors. -/
theorem phincRecip_within_one {k fs : Nat} {f : Int} (fsPos : 0 < fs) (precise : 5 ≤ k)
    (error : |f * ((recipR k fs : Int) * fs - 2 ^ k)| ≤ 2 ^ (k - 5) * (fs : Int)) :
    -1 ≤ phincRecip k fs f - phincDiv fs f ∧ phincRecip k fs f - phincDiv fs f ≤ 1 := by
  have power : (2 : Int) ^ k = 2 ^ (k - 5) * 32 := by
    rw [← pow_sub_mul_pow 2 precise]
    norm_num
  have scalePos : (0 : Int) < 2 ^ (k - 5) := by positivity
  have ratePos : (0 : Int) < fs := by exact_mod_cast fsPos
  obtain ⟨recipLo, recipHi⟩ := phincRecip_bounds k fs f
  obtain ⟨divLo, divHi⟩ := phincDiv_bounds fsPos f
  obtain ⟨errorLo, errorHi⟩ := abs_le.mp error
  rw [power] at errorLo errorHi
  generalize (2 : Int) ^ (k - 5) = scale at *
  have unit : 0 < scale * (fs : Int) := mul_pos scalePos ratePos
  constructor
  · have gap : 0 < (phincRecip k fs f - phincDiv fs f + 2) * (scale * (fs : Int)) := by
      linarith [mul_lt_mul_of_pos_right recipHi ratePos, mul_le_mul_of_nonneg_left divLo scalePos.le]
    linarith [(mul_pos_iff_of_pos_right unit).mp gap]
  · have gap : 0 < (phincDiv fs f - phincRecip k fs f + 2) * (scale * (fs : Int)) := by
      linarith [mul_le_mul_of_nonneg_right recipLo ratePos.le, mul_lt_mul_of_pos_left divHi scalePos]
    linarith [(mul_pos_iff_of_pos_right unit).mp gap]

/-- The error grows with the frequency, so that at 55 Hz decides for the whole range. -/
theorem agrees_of_recip_error {c : Config.Params} {k : Nat} (mode : c.phincMode = .recip k) (fsPos : 0 < c.fs)
    (precise : 5 ≤ k)
    (error : 55 * 33554432 * |(recipR k c.fs : Int) * c.fs - 2 ^ k| ≤ 2 ^ (k - 5) * (c.fs : Int)) : c.Agrees := by
  intro f lo hi
  have atF : |f * ((recipR k c.fs : Int) * c.fs - 2 ^ k)| ≤ 2 ^ (k - 5) * (c.fs : Int) := by
    rw [abs_mul, abs_of_nonneg (by omega : 0 ≤ f)]
    exact (mul_le_mul_of_nonneg_right hi (abs_nonneg _)).trans error
  have realisation : phinc c f = phincRecip k c.fs f := phinc_of_recip mode f
  rw [realisation]
  exact phincRecip_within_one fsPos precise atF

/-- One frequency of the range at which a reciprocal is more than a unit low shuts it out of every block. -/
theorem phincMode_ne_recip_of_gap {b : Config.Block} {k : Nat} {f : Int} (lo : 45 * 33554432 ≤ f)
    (hi : f ≤ 55 * 33554432) (gap : phincRecip k b.params.fs f - phincDiv b.params.fs f < -1) :
    b.params.phincMode ≠ .recip k := by
  intro mode
  have realisation : phinc b.params f = phincRecip k b.params.fs f := phinc_of_recip mode f
  obtain ⟨within, -⟩ := b.agrees f lo hi
  rw [realisation] at within
  omega

/-- The reference configuration with a reciprocal passes both checks where `K` is in range and the error small. -/
theorem reference_recip_admitted (t : Index → Word) {k : Nat}
    (inRange : (Config.PhincMode.recip k).inRange 40000 = true)
    (error : 55 * 33554432 * |(recipR k 40000 : Int) * (40000 : Nat) - 2 ^ k| ≤ 2 ^ (k - 5) * (40000 : Nat)) :
    ({ phincMode := .recip k, sineTable := t } : Config.Params).wf = true ∧
      ({ phincMode := .recip k, sineTable := t } : Config.Params).Agrees := by
  obtain ⟨precise, -⟩ := of_decide_eq_true inRange
  exact ⟨inRange, agrees_of_recip_error rfl (by decide : 0 < 40000) precise error⟩

/-- Settles O29: `RECIP(32)` and `RECIP(33)` are three units low at 55 Hz, and the other three have a small enough error
there. -/
theorem admittedReciprocals : Obligations.AdmittedReciprocals := by
  refine ⟨fun b rate => ⟨?_, ?_⟩, fun k t precision => ?_⟩
  · exact phincMode_ne_recip_of_gap (f := 55 * 33554432) (by decide) le_rfl (by rw [rate]; decide)
  · exact phincMode_ne_recip_of_gap (f := 55 * 33554432) (by decide) le_rfl (by rw [rate]; decide)
  · rcases precision with rfl | rfl | rfl
    · exact reference_recip_admitted t (by decide) (by decide)
    · exact reference_recip_admitted t (by decide) (by decide)
    · exact reference_recip_admitted t (by decide) (by decide)

/-! ### What every accepted block keeps (R144, R145, R150) -/

/-- The agreement property of a block at `FS` = 40000, in integers. -/
theorem phinc_within_one_of_block {b : Config.Block} {f : Int} (rate : b.params.fs = 40000) (lo : 45 * 33554432 ≤ f)
    (hi : f ≤ 55 * 33554432) : f * 32 / 40000 - 1 ≤ phinc b.params f ∧ phinc b.params f ≤ f * 32 / 40000 + 1 := by
  have direct : phincDiv b.params.fs f = f * 32 / 40000 := by rw [rate]; rfl
  obtain ⟨below, above⟩ := b.agrees f lo hi
  rw [direct] at below above
  constructor <;> omega

/-- Settles O30: the reachable frequencies are 48 to 52 Hz, whose direct increments are well inside the bounds. -/
theorem incrementIsPositiveAndSmall : Obligations.IncrementIsPositiveAndSmall := by
  intro b f rate lo hi
  obtain ⟨below, above⟩ := phinc_within_one_of_block (b := b) (f := f) rate (by omega) (by omega)
  constructor <;> omega

/-- Settles O44: the increment is the converter's, at the frequency that the tick leaves. -/
theorem phaseAdvanceWithinOneUnit : Obligations.PhaseAdvanceWithinOneUnit := by
  intro b x s rate lo hi
  refine ⟨phinc b.params (sampleTick b.params x s).outFreq.toInt, ?_, phinc_within_one_of_block rate lo hi⟩
  rw [sampleTick_theta, increment, sampleTick_outFreq]
  exact phadv_toNat _ _

end Sys2Proof.Proofs

namespace Sys2Proof.Proofs

open Sys2Proof.Machine

/-! ### The phase advance (R150) -/

/-- The mask `0x3FFFFFFF` leaves the remainder modulo one turn. -/
theorem word_and_turnMask_toNat (v : Word) : (v &&& 0x3FFFFFFF#32).toNat = v.toNat % 2 ^ 30 := by
  rw [BitVec.toNat_and]
  exact Nat.and_two_pow_sub_one_eq_mod v.toNat 30

/-- One turn divides `2^32`, so the carry that the 32-bit addition drops does not reach the masked sum. -/
theorem presented_phadv (theta : Theta) (inc : Int) :
    presented (phadv theta inc) = (presented theta + BitVec.ofInt 32 inc) &&& 0x3FFFFFFF#32 := by
  have advance := phadv_toNat theta inc
  apply BitVec.eq_of_toNat_eq
  rw [presented_toNat, word_and_turnMask_toNat, BitVec.toNat_add, presented_toNat, BitVec.toNat_ofInt]
  omega

theorem phadv_zero (theta : Theta) : phadv theta 0 = theta := by
  have advance := phadv_toNat theta 0
  have belowOneTurn := theta.isLt
  apply BitVec.eq_of_toNat_eq
  omega

/-- Settles O31: the remainder, the masked 32-bit sum, and the increment 0. -/
theorem phaseAdvanceWraps : Obligations.PhaseAdvanceWraps :=
  ⟨phadv_toNat, presented_phadv, phadv_zero⟩

/-! ### The free-running phase (R152, R163) -/

/-- A zero sample leaves the integrator as it is and hands it to the output (R128, R163). -/
theorem controlWires_zero_sample (c : Config.Params) (s : State) :
    (controlWires c 0#24 s).integrator = s.integrator ∧ (controlWires c 0#24 s).u = s.integrator := by
  obtain ⟨-, -, -, kept, output⟩ :=
    zeroSineOrSampleGivesNoError c s.kp s.ki s.integrator 0#24 (ncoSin c s.theta) (.inr rfl)
  exact ⟨kept, output⟩

/-- Where the controller gives no output the increment is that of the nominal frequency. -/
theorem increment_of_zero_output {c : Config.Params} (wf : c.wf = true) {x : Sample} {s : State}
    (noOutput : (controlWires c x s).u = 0#32) : increment c x s = phinc c c.f0 := by
  have noCorrection : (u2df 0#32).toInt = 0 := by decide
  rw [increment, controlWires_outFreq, noOutput, outf_u2df_toInt wf, noCorrection, Int.add_zero]

/-- The increment of the deployed block at its nominal frequency (R141, R152). -/
theorem block_nominal_increment : phinc block.params block.params.f0 = 1342177 := by decide

/-- One `STEP 0` from a zero integrator: the integrator stays 0 and the phase advances by the nominal increment. -/
theorem sampleTick_zero_input {s : State} (noIntegral : s.integrator = 0#32) :
    (sampleTick block.params 0#24 s).integrator = 0#32 ∧
      (sampleTick block.params 0#24 s).theta.toNat = (s.theta.toNat + 1342177) % 2 ^ 30 := by
  obtain ⟨kept, output⟩ := controlWires_zero_sample block.params s
  have nominal : increment block.params 0#24 s = 1342177 :=
    (increment_of_zero_output block.wf (output.trans noIntegral)).trans block_nominal_increment
  have advance := phadv_toNat s.theta 1342177
  rw [sampleTick_integrator, sampleTick_theta, nominal]
  exact ⟨kept.trans noIntegral, by omega⟩

/-- Settles O56: by induction on the number of steps, from every state; a sample tick leaves a state like the one it
started from, and the remainders of the two parts add up. -/
theorem zeroInputPhaseAfterAnySteps : Obligations.ZeroInputPhaseAfterAnySteps := by
  intro n
  induction n with
  | zero =>
    intro s _ noIntegral
    have belowOneTurn := s.theta.isLt
    exact ⟨s, rfl, noIntegral, by omega⟩
  | succ n ih =>
    intro s started noIntegral
    obtain ⟨kept, advanced⟩ := sampleTick_zero_input noIntegral
    have running : (sampleTick block.params 0#24 s).phase ≠ .uninit := by simp
    obtain ⟨t, others, noIntegralAtEnd, phaseAtEnd⟩ := ih _ running kept
    refine ⟨t, ?_, noIntegralAtEnd, by omega⟩
    rw [List.replicate_succ, runInstrs_cons_of_next (exec_step_of_init 0#24 s started), others]

end Sys2Proof.Proofs

namespace Sys2Proof.Proofs

open Sys2Proof.Machine

/-! ### The commands that hold the state (R161, R164) -/

/-- Settles O32: both commands are `hold`, and neither has an index to read. -/
theorem nopAndRsvdChangeNothing : Obligations.NopAndRsvdChangeNothing :=
  fun s => ⟨exec_nop s, exec_rsvd s, rfl, rfl⟩

/-! ### `INIT` forgets the state (R166, R168) -/

/-- Initialisation takes nothing from the state before but the words still to come (R162). -/
theorem initialise_congr (c : Config.Params) (kp0 ki0 : Word) {s s' : State} (same : s.cmds = s'.cmds) :
    initialise c kp0 ki0 s = initialise c kp0 ki0 s' := by
  rw [initialise, initialise, same]

/-- Settles O38: the state that `INIT` leaves has the same words still to come as the state it started from. -/
theorem initIgnoresTheStateAndIsIdempotent : Obligations.InitIgnoresTheStateAndIsIdempotent := by
  refine ⟨fun kp0 ki0 s s' same => ?_, fun kp0 ki0 s t u once twice => ?_⟩
  · rw [exec_init, exec_init, initialise_congr block.params kp0 ki0 same]
  · rw [exec_init] at once twice
    cases once
    cases twice
    exact initialise_congr block.params kp0 ki0 (initialise_cmds ..)

/-- A run does what its `INIT`s and `STEP`s do (R164, R168). -/
theorem runInstrs_filter_active (is : List Instr) (s : State) :
    runInstrs (is.filter Instr.isActive) s = runInstrs is s := by
  induction is generalizing s with
  | nil => rfl
  | cons i is ih =>
    cases active : i.isActive with
    | false =>
      have held := exec_of_not_active active s
      rw [List.filter_cons_of_neg (Bool.eq_false_iff.mp active), runInstrs_cons_of_next held, ih]
    | true =>
      rw [List.filter_cons_of_pos active]
      cases first : exec i s with
      | next t => rw [runInstrs_cons_of_next first, runInstrs_cons_of_next first, ih]
      | fault r => exact nomatch r
      | refused r => rw [runInstrs_cons_of_refused first, runInstrs_cons_of_refused first]

/-- Settles O52: the two `INIT`s leave one state, and from it each run does what its `INIT`s and `STEP`s do. -/
theorem trajectoryIsFunctionOfGainsAndSamples : Obligations.TrajectoryIsFunctionOfGainsAndSamples := by
  intro kp0 ki0 is js s s' sameWords sameActive
  calc runInstrs (.init kp0 ki0 :: is) s
      = runInstrs is (initialise block.params kp0 ki0 s) := runInstrs_cons_of_next (exec_init ..)
    _ = runInstrs js (initialise block.params kp0 ki0 s) := by
      rw [← runInstrs_filter_active is, sameActive, runInstrs_filter_active]
    _ = runInstrs js (initialise block.params kp0 ki0 s') := by
      rw [initialise_congr block.params kp0 ki0 sameWords]
    _ = runInstrs (.init kp0 ki0 :: js) s' := (runInstrs_cons_of_next (exec_init ..)).symm

/-! ### The one stop (R165, R180) -/

/-- A run goes on from the state its first part leaves. -/
theorem runInstrs_append_of_next {is : List Instr} (js : List Instr) {s t : State} (run : runInstrs is s = .next t) :
    runInstrs (is ++ js) s = runInstrs js t := by
  induction is generalizing s with
  | nil =>
    cases run
    rfl
  | cons i is ih =>
    obtain ⟨u, first, others⟩ := runInstrs_cons_next run
    rw [List.cons_append, runInstrs_cons_of_next first, ih others]

/-- Settles O35: the idle commands hold the state, so the `STEP` meets the phase the run began with. -/
theorem stepBeforeInitIsRefused : Obligations.StepBeforeInitIsRefused := by
  refine ⟨exec_step_of_uninit, fun idle after x s uninit allIdle => ?_⟩
  have noneActive : idle.any Instr.isActive = false := by simpa using allIdle
  rw [runInstrs_append_of_next _ (runInstrs_of_not_active noneActive s)]
  exact runInstrs_cons_of_refused (exec_step_of_uninit x s uninit)

/-- Settles O36: there is no fault to answer with, and the one refusal is known. -/
theorem onlyAnEarlyStepStops : Obligations.OnlyAnEarlyStepStops := by
  intro i s
  cases run : exec i s with
  | next t => exact .inl ⟨t, rfl⟩
  | fault r => exact nomatch r
  | refused r =>
    obtain ⟨rfl, early⟩ := exec_refused_cases run
    exact .inr ⟨rfl, early⟩

/-! ### Sample ticks without a correction (R162, R163) -/

/-- Without an output from the controller the block runs at its nominal frequency (R125, R126, R163). -/
theorem sampleTick_of_zero_output {c : Config.Params} (wf : c.wf = true) {x : Sample} {s : State}
    (noOutput : (controlWires c x s).u = 0#32) :
    (sampleTick c x s).deltaFreq = 0#32 ∧ (sampleTick c x s).outFreq = BitVec.ofInt 32 c.f0 ∧
      (sampleTick c x s).theta = phadv s.theta (phinc c c.f0) := by
  have noCorrection : u2df 0#32 = 0#32 := by decide
  refine ⟨?_, ?_, ?_⟩
  · rw [sampleTick_deltaFreq, controlWires_deltaFreq, noOutput, noCorrection]
  · rw [sampleTick_outFreq, controlWires_outFreq, noOutput, noCorrection, outf, BitVec.toInt_zero, Int.add_zero]
  · rw [sampleTick_theta, increment_of_zero_output wf noOutput]

/-- Right after `INIT` the sine is `T[0]`; a zero sine gives no error, whatever the sample and the gains (R128). -/
theorem controlWires_initialise {c : Config.Params} (zero : c.sineTable 0#10 = 0#32) (kp0 ki0 : Word) (x : Sample)
    (s : State) :
    (controlWires c x (initialise c kp0 ki0 s)).integrator = 0#32 ∧
      (controlWires c x (initialise c kp0 ki0 s)).u = 0#32 := by
  have sine : ncoSin c 0#30 = 0#32 := (ncoSin_eq c 0#30).trans zero
  obtain ⟨-, -, -, kept, output⟩ := zeroSineOrSampleGivesNoError c kp0 ki0 0#32 x (ncoSin c 0#30) (.inl sine)
  exact ⟨kept, output⟩

/-- Settles O42: the first tick after `INIT` has no output, and it starts from phase 0. -/
theorem firstStepAfterInitHasNoError : Obligations.FirstStepAfterInitHasNoError := by
  intro b kp0 ki0 x s zero
  obtain ⟨noIntegral, noOutput⟩ := controlWires_initialise zero kp0 ki0 x s
  obtain ⟨noCorrection, nominal, advanced⟩ := sampleTick_of_zero_output b.wf noOutput
  refine ⟨?_, ?_, noCorrection, ?_⟩
  · rw [sampleTick_integrator, noIntegral]
  · rw [nominal, nominal_toInt b.wf]
  · rw [advanced, phadv_toNat, initialise_theta, BitVec.toNat_zero, Int.natCast_zero, Int.zero_add]
    rfl

/-- Zero gains make both terms 0 whatever the error, so the integrator stays and is the output (R122 to R124). -/
theorem controlWires_zero_gains (c : Config.Params) (x : Sample) {s : State} (noKp : s.kp = 0#32) (noKi : s.ki = 0#32) :
    (controlWires c x s).integrator = s.integrator ∧ (controlWires c x s).u = s.integrator := by
  have kept : (controlWires c x s).integrator = s.integrator := by
    rw [controlWires, pdpi_integrator, pdpi_iterm, noKi, integralTerm, qmul30_zero, integrate, satAdd_zero]
  have output : (controlWires c x s).u = (controlWires c x s).integrator := by
    rw [controlWires, pdpi_u, pdpi_p, noKp, proportional, qmul30_zero, controllerOut, satAdd_zero_left]
  exact ⟨kept, output.trans kept⟩

/-- Settles O43: with no output the tick advances the phase by the nominal increment, 1342177. -/
theorem zeroGainsRunFree : Obligations.ZeroGainsRunFree := by
  intro x s started noKp noKi noIntegral
  obtain ⟨kept, output⟩ := controlWires_zero_gains block.params x noKp noKi
  obtain ⟨noCorrection, nominal, advanced⟩ := sampleTick_of_zero_output block.wf (output.trans noIntegral)
  refine ⟨_, exec_step_of_init x s started, ?_, noCorrection, nominal.trans block_nominal, ?_⟩
  · rw [sampleTick_integrator, kept, noIntegral]
  · have value := phadv_toNat s.theta 1342177
    rw [advanced, block_nominal_increment]
    omega

/-! ### The datapath of a sample tick in integers (R163) -/

/-- `SAT32` on integers, as the pseudocode writes it (R91). -/
def clampInt (v : Int) : Int :=
  if v < -2147483648 then -2147483648 else if 2147483647 < v then 2147483647 else v

/-- `QMUL30` on integers (R94). -/
def mulInt (a b : Int) : Int := clampInt (a * b / 1073741824)

theorem sat32_toInt_eq_clampInt (v : Int) : (sat32 v).toInt = clampInt v := by
  rw [sat32_toInt, clampInt]
  split_ifs <;> omega

theorem qmul30_toInt_eq_mulInt (a b : Word) : (qmul30 a b).toInt = mulInt a.toInt b.toInt :=
  sat32_toInt_eq_clampInt _

section
variable (c : Config.Params) (x : Sample) (s : State)

/-! Each wire of a sample tick as an integer, from the integers of the wires before it. -/

theorem controlWires_qerr_toInt : (controlWires c x s).qerr.toInt =
    clampInt (-(mulInt (x.toInt * 256) (ncoSin c s.theta).toInt)) := by
  rw [controlWires, pdpi_qerr, pd, negs, sat32_toInt_eq_clampInt, pdProduct, qmul30_toInt_eq_mulInt, rescale_toInt]

theorem controlWires_integrator_toInt : (controlWires c x s).integrator.toInt =
    clampInt (s.integrator.toInt + mulInt s.ki.toInt (controlWires c x s).qerr.toInt) := by
  rw [controlWires, pdpi_integrator, integrate, satAdd, sat32_toInt_eq_clampInt, pdpi_iterm, integralTerm,
    qmul30_toInt_eq_mulInt]

theorem controlWires_u_toInt : (controlWires c x s).u.toInt =
    clampInt (mulInt s.kp.toInt (controlWires c x s).qerr.toInt + (controlWires c x s).integrator.toInt) := by
  rw [controlWires, pdpi_u, controllerOut, satAdd, sat32_toInt_eq_clampInt, pdpi_p, proportional,
    qmul30_toInt_eq_mulInt]

theorem controlWires_deltaFreq_toInt :
    (controlWires c x s).deltaFreq.toInt = clampInt ((controlWires c x s).u.toInt / 32) := by
  rw [controlWires_deltaFreq]
  exact sat32_toInt_eq_clampInt _

theorem controlWires_outFreq_toInt (wf : c.wf = true) :
    (controlWires c x s).outFreq.toInt = c.f0 + (controlWires c x s).deltaFreq.toInt := by
  rw [controlWires_outFreq, outf_u2df_toInt wf, controlWires_deltaFreq]

end

/-- Settles O34: the integers of the pseudocode are those of the wires, one after the other. -/
theorem stepComputesTheDatapath : Obligations.StepComputesTheDatapath := by
  intro x s started
  refine ⟨_, exec_step_of_init x s started, ?_⟩
  intro clamp mul si sine qerr integ u df freq inc
  have hsine : ncoSin block.params s.theta = sine := ncoSin_eq ..
  have hqerr : (controlWires block.params x s).qerr.toInt = qerr := by
    rw [controlWires_qerr_toInt, hsine]
    rfl
  have hinteg : (controlWires block.params x s).integrator.toInt = integ := by
    rw [controlWires_integrator_toInt, hqerr]
    rfl
  have hu : (controlWires block.params x s).u.toInt = u := by
    rw [controlWires_u_toInt, hqerr, hinteg]
    rfl
  have hdf : (controlWires block.params x s).deltaFreq.toInt = df := by
    rw [controlWires_deltaFreq_toInt, hu]
    rfl
  have hfreq : (controlWires block.params x s).outFreq.toInt = freq := by
    rw [controlWires_outFreq_toInt _ _ _ block.wf, hdf]
  have hinc : increment block.params x s = inc := by
    rw [increment, hfreq]
  refine ⟨(sampleTick_sinCached ..).trans hsine, (sampleTick_cosCached ..).trans (ncoCos_eq ..), ?_, ?_, ?_, ?_,
    sampleTick_kp .., sampleTick_ki .., sampleTick_phase .., sampleTick_cmds ..⟩
  · rw [sampleTick_integrator, hinteg]
  · rw [sampleTick_deltaFreq, hdf]
  · rw [sampleTick_outFreq, hfreq]
  · rw [sampleTick_theta, hinc]
    exact phadv_toNat ..

end Sys2Proof.Proofs

namespace Sys2Proof.Proofs

/-- Settles O55, by induction on the number of ticks: each tick answers the state it began in. -/
theorem nothingChangesWithoutCommands : Obligations.NothingChangesWithoutCommands := by
  intro n s noWord
  induction n with
  | zero => rfl
  | succ n ih =>
    calc Host.Core.run Sys2Proof.core (n + 1) s
      _ = Host.Core.run Sys2Proof.core n s := core_run_succ_of_next n (step_of_cmds_nil noWord)
      _ = .next s := ih

end Sys2Proof.Proofs

namespace Sys2Proof.Proofs

open Sys2Proof.Machine

/-! ### The boot rule (R202) -/

@[simp] theorem safeRun_nil (s : State) : SafeRun [] s := ⟨s, runInstrs_nil s⟩

/-- A run is safe if its first command answers and the others run safely from the state it leaves. -/
theorem safeRun_cons_of_next {i : Instr} {is : List Instr} {s t : State} (first : exec i s = .next t)
    (others : SafeRun is t) : SafeRun (i :: is) s := by
  obtain ⟨u, run⟩ := others
  exact ⟨u, (runInstrs_cons_of_next first).trans run⟩

@[simp] theorem hostObeys_nop (b : Bool) (is : List Instr) : hostObeys b (.nop :: is) = hostObeys b is := by
  rw [hostObeys]

@[simp] theorem hostObeys_rsvd (b : Bool) (is : List Instr) : hostObeys b (.rsvd :: is) = hostObeys b is := by
  rw [hostObeys]

@[simp] theorem hostObeys_init (b : Bool) (kp0 ki0 : Word) (is : List Instr) :
    hostObeys b (.init kp0 ki0 :: is) = hostObeys true is := by
  rw [hostObeys]

@[simp] theorem hostObeys_step_iff (b : Bool) (x : Sample) (is : List Instr) :
    hostObeys b (.step x :: is) = true ↔ b = true ∧ hostObeys b is = true := by
  rw [hostObeys, Bool.and_eq_true]

/-- The boot rule keeps a run safe whenever the flag claims no `INIT` that the state has not seen: `NOP` and `RSVD` hold
the state, `INIT` and `STEP` leave it initialised, and the rule allows a `STEP` only under the flag. -/
theorem safeRun_of_hostObeys {is : List Instr} {b : Bool} {s : State} (sound : b = true → s.phase ≠ .uninit)
    (obeys : hostObeys b is = true) : SafeRun is s := by
  induction is generalizing b s with
  | nil => exact safeRun_nil s
  | cons i is ih =>
    cases i with
    | nop =>
      rw [hostObeys_nop] at obeys
      exact safeRun_cons_of_next (exec_nop s) (ih sound obeys)
    | rsvd =>
      rw [hostObeys_rsvd] at obeys
      exact safeRun_cons_of_next (exec_rsvd s) (ih sound obeys)
    | init kp0 ki0 =>
      rw [hostObeys_init] at obeys
      have started : (initialise block.params kp0 ki0 s).phase ≠ .uninit := by simp
      exact safeRun_cons_of_next (exec_init kp0 ki0 s) (ih (fun _ => started) obeys)
    | step x =>
      obtain ⟨issued, othersObey⟩ := (hostObeys_step_iff b x is).mp obeys
      have started : (sampleTick block.params x s).phase ≠ .uninit := by simp
      exact safeRun_cons_of_next (exec_step_of_init x s (sound issued)) (ih (fun _ => started) othersObey)

/-- Settles O53: the flag that says whether the state is initialised claims nothing more. -/
theorem obedientHostIsNeverRefused : Obligations.ObedientHostIsNeverRefused :=
  fun _ _ obeys => safeRun_of_hostObeys of_decide_eq_true obeys

end Sys2Proof.Proofs
